-- ==== Sys2Proof/Word.lean ====
section
/-! DEFINITION. The sizes of R7: bytes, 12-bit addresses, 16-bit instruction words, register numbers and the
framebuffer's 2048 cells. Nothing here is more than a width. -/

namespace Sys2Proof

/-- One 8-bit register, timer or memory cell (R7, R20, R29, R35). -/
abbrev Byte := BitVec 8

/-- A 12-bit address: `PC`, `I`, stack entries (R24, R25, R27). -/
abbrev Addr := BitVec 12

/-- A 16-bit instruction word `op[15:0]` (R10, R75). -/
abbrev Word := BitVec 16

/-- A general register number 0..15 (R20). -/
abbrev Reg := Fin 16

/-- The framebuffer, cell `k` at bit `k` (R33, and the port `fb[2047:0]` of R230). -/
abbrev FrameBuf := BitVec 2048

/-- `VF`, the flag register (R22). -/
abbrev regF : Reg := 15

end Sys2Proof
end

