-- ==== Sys2Proof/Syntax.lean ====
section
/-! DEFINITION. The 34 instructions of R80, one constructor for each row of spec/opcode_table.json. An operand has the
width its field has (R76, R78), so a term of `Instr` is well formed by its type. -/

namespace Sys2Proof

/-- The instruction set (R80): register numbers `x`, `y`, immediates `kk`, addresses `nnn`, row counts `n`. -/
inductive Instr where
  /-- `00E0` CLS (R173). -/
  | cls
  /-- `00EE` RET (R101). -/
  | ret
  /-- `1nnn` JP nnn (R102). -/
  | jp (nnn : Addr)
  /-- `2nnn` CALL nnn (R103). -/
  | call (nnn : Addr)
  /-- `3xkk` SE Vx, kk (R104). -/
  | seImm (x : Reg) (kk : Byte)
  /-- `4xkk` SNE Vx, kk (R105). -/
  | sneImm (x : Reg) (kk : Byte)
  /-- `5xy0` SE Vx, Vy (R106). -/
  | seReg (x y : Reg)
  /-- `6xkk` LD Vx, kk (R120). -/
  | ldImm (x : Reg) (kk : Byte)
  /-- `7xkk` ADD Vx, kk (R121). -/
  | addImm (x : Reg) (kk : Byte)
  /-- `8xy0` LD Vx, Vy (R123). -/
  | ldReg (x y : Reg)
  /-- `8xy1` OR Vx, Vy (R124). -/
  | orReg (x y : Reg)
  /-- `8xy2` AND Vx, Vy (R125). -/
  | andReg (x y : Reg)
  /-- `8xy3` XOR Vx, Vy (R126). -/
  | xorReg (x y : Reg)
  /-- `8xy4` ADD Vx, Vy (R127). -/
  | addReg (x y : Reg)
  /-- `8xy5` SUB Vx, Vy (R128). -/
  | subReg (x y : Reg)
  /-- `8xy6` SHR Vx: `y` is in the word and has no effect (R129). -/
  | shr (x y : Reg)
  /-- `8xy7` SUBN Vx, Vy (R130). -/
  | subnReg (x y : Reg)
  /-- `8xyE` SHL Vx: `y` is in the word and has no effect (R131). -/
  | shl (x y : Reg)
  /-- `9xy0` SNE Vx, Vy (R107). -/
  | sneReg (x y : Reg)
  /-- `Annn` LD I, nnn (R150). -/
  | ldI (nnn : Addr)
  /-- `Bnnn` JP V0, nnn (R108). -/
  | jpV0 (nnn : Addr)
  /-- `Cxkk` RND Vx, kk (R132). -/
  | rnd (x : Reg) (kk : Byte)
  /-- `Dxyn` DRW Vx, Vy, n (R174). -/
  | drw (x y : Reg) (n : BitVec 4)
  /-- `Ex9E` SKP Vx (R190). -/
  | skp (x : Reg)
  /-- `ExA1` SKNP Vx (R191). -/
  | sknp (x : Reg)
  /-- `Fx07` LD Vx, DT (R194). -/
  | ldVxDt (x : Reg)
  /-- `Fx0A` LD Vx, K (R192). -/
  | ldVxK (x : Reg)
  /-- `Fx15` LD DT, Vx (R195). -/
  | ldDtVx (x : Reg)
  /-- `Fx18` LD ST, Vx (R196). -/
  | ldStVx (x : Reg)
  /-- `Fx1E` ADD I, Vx (R151). -/
  | addI (x : Reg)
  /-- `Fx29` LD F, Vx (R152). -/
  | ldF (x : Reg)
  /-- `Fx33` LD B, Vx (R153). -/
  | ldB (x : Reg)
  /-- `Fx55` LD [I], Vx (R154). -/
  | storeRegs (x : Reg)
  /-- `Fx65` LD Vx, [I] (R155). -/
  | loadRegs (x : Reg)
deriving DecidableEq, Repr

end Sys2Proof
end

