-- ==== Sys2Proof/Decode.lean ====
section
/-! DEFINITION. The decoder, from the table of R80 by the procedure of R79, and after it the encoder, from the formats
of R77. -/

namespace Sys2Proof

/-- The fields of an instruction word (R76). -/
structure Fields where
  x : Reg
  y : Reg
  n : BitVec 4
  kk : Byte
  nnn : Addr
deriving DecidableEq, Repr

/-- R76: `x = op[11:8]`, `y = op[7:4]`, `n = op[3:0]`, `kk = op[7:0]`, `nnn = op[11:0]`. -/
def fieldsOf (op : Word) : Fields where
  x := (op.extractLsb' 8 4).toFin
  y := (op.extractLsb' 4 4).toFin
  n := op.extractLsb' 0 4
  kk := op.extractLsb' 0 8
  nnn := op.extractLsb' 0 12

/-- A row of R80: which bits are fixed, what they are, and the instruction the fields make. -/
structure Row where
  mask : Word
  bits : Word
  build : Fields → Instr

/-- The rows of formats Z and A (R77, R80). -/
def rowsZA : List Row :=
  [ ⟨0xFFFF, 0x00E0, fun _ => .cls⟩,
    ⟨0xFFFF, 0x00EE, fun _ => .ret⟩,
    ⟨0xF000, 0x1000, fun f => .jp f.nnn⟩,
    ⟨0xF000, 0x2000, fun f => .call f.nnn⟩,
    ⟨0xF000, 0xA000, fun f => .ldI f.nnn⟩,
    ⟨0xF000, 0xB000, fun f => .jpV0 f.nnn⟩ ]

/-- The rows of formats I and D (R77, R80). -/
def rowsID : List Row :=
  [ ⟨0xF000, 0x3000, fun f => .seImm f.x f.kk⟩,
    ⟨0xF000, 0x4000, fun f => .sneImm f.x f.kk⟩,
    ⟨0xF000, 0x6000, fun f => .ldImm f.x f.kk⟩,
    ⟨0xF000, 0x7000, fun f => .addImm f.x f.kk⟩,
    ⟨0xF000, 0xC000, fun f => .rnd f.x f.kk⟩,
    ⟨0xF000, 0xD000, fun f => .drw f.x f.y f.n⟩ ]

/-- The rows of format R (R77, R80, R82). -/
def rowsR : List Row :=
  [ ⟨0xF00F, 0x5000, fun f => .seReg f.x f.y⟩,
    ⟨0xF00F, 0x8000, fun f => .ldReg f.x f.y⟩,
    ⟨0xF00F, 0x8001, fun f => .orReg f.x f.y⟩,
    ⟨0xF00F, 0x8002, fun f => .andReg f.x f.y⟩,
    ⟨0xF00F, 0x8003, fun f => .xorReg f.x f.y⟩,
    ⟨0xF00F, 0x8004, fun f => .addReg f.x f.y⟩,
    ⟨0xF00F, 0x8005, fun f => .subReg f.x f.y⟩,
    ⟨0xF00F, 0x8006, fun f => .shr f.x f.y⟩,
    ⟨0xF00F, 0x8007, fun f => .subnReg f.x f.y⟩,
    ⟨0xF00F, 0x800E, fun f => .shl f.x f.y⟩,
    ⟨0xF00F, 0x9000, fun f => .sneReg f.x f.y⟩ ]

/-- The rows of format X (R77, R80). -/
def rowsX : List Row :=
  [ ⟨0xF0FF, 0xE09E, fun f => .skp f.x⟩,
    ⟨0xF0FF, 0xE0A1, fun f => .sknp f.x⟩,
    ⟨0xF0FF, 0xF007, fun f => .ldVxDt f.x⟩,
    ⟨0xF0FF, 0xF00A, fun f => .ldVxK f.x⟩,
    ⟨0xF0FF, 0xF015, fun f => .ldDtVx f.x⟩,
    ⟨0xF0FF, 0xF018, fun f => .ldStVx f.x⟩,
    ⟨0xF0FF, 0xF01E, fun f => .addI f.x⟩,
    ⟨0xF0FF, 0xF029, fun f => .ldF f.x⟩,
    ⟨0xF0FF, 0xF033, fun f => .ldB f.x⟩,
    ⟨0xF0FF, 0xF055, fun f => .storeRegs f.x⟩,
    ⟨0xF0FF, 0xF065, fun f => .loadRegs f.x⟩ ]

/-- The complete opcode map (R80); the order does not matter, because no word matches two rows (R79). -/
def rows : List Row := rowsZA ++ rowsID ++ rowsR ++ rowsX

/-- R79: a word matches a row when `op & mask == match`. -/
def Row.matches (r : Row) (op : Word) : Bool := op &&& r.mask == r.bits

/-- What a word is (R84): one of the 34 instructions or an unrecognised opcode. -/
inductive Decoded where
  | instr (i : Instr)
  | unrecognized (op : Word)
deriving DecidableEq, Repr

/-- R79, R84: the decoder, total on all 65536 words. -/
def decodeWord (op : Word) : Decoded :=
  match rows.find? (·.matches op) with
  | some r => .instr (r.build (fieldsOf op))
  | none => .unrecognized op

/-- R54: the byte at the lower address is `op[15:8]`. -/
def wordOf (hi lo : Byte) : Word := hi ++ lo

/-- Why a list of bytes does not begin with an instruction. -/
inductive DecodeError where
  /-- fewer than the two bytes of R75 -/
  | truncated
  /-- the word matches no row (R81) -/
  | unrecognizedOpcode (op : Word)
deriving DecidableEq, Repr

/-- R75: an instruction is the first two bytes, and the rest of the list follows it. -/
def decodeBytes : List Byte → Except DecodeError (Instr × List Byte)
  | hi :: lo :: rest =>
    match decodeWord (wordOf hi lo) with
    | .instr i => .ok (i, rest)
    | .unrecognized op => .error (.unrecognizedOpcode op)
  | _ => .error .truncated

/-- The two bytes of a word as the hardware stores them, the high half at the lower address (R54). -/
def bytesOf (op : Word) : List Byte := [op.extractLsb' 8 8, op.extractLsb' 0 8]

/-- The instruction read from a word numbered as spec/opcode_table.json numbers it: bit 0 is the least significant
bit of the one 16-bit word, and the bits above `nbits` are 0. -/
def decodeTableWord (nbits w : Nat) : Option Instr :=
  match decodeBytes (bytesOf (BitVec.ofNat 16 (w % 2 ^ nbits))) with
  | .ok (i, _) => some i
  | .error _ => none

/-- A register number as the four bits of its field (R76). -/
def regBits (r : Reg) : BitVec 4 := BitVec.ofFin r

/-- Format A (R77): `t`, then `nnn`. -/
def formatA (t : BitVec 4) (nnn : Addr) : Word := t ++ nnn

/-- Format I (R77): `t`, `x`, then `kk`. -/
def formatI (t : BitVec 4) (x : Reg) (kk : Byte) : Word := t ++ (regBits x ++ kk)

/-- Formats R and D (R77): `t`, `x`, `y`, then the sub-opcode or `n`. -/
def formatR (t : BitVec 4) (x y : Reg) (sub : BitVec 4) : Word := t ++ (regBits x ++ (regBits y ++ sub))

/-- Format X (R77): `t`, `x`, then the function byte. -/
def formatX (t : BitVec 4) (x : Reg) (fn : Byte) : Word := t ++ (regBits x ++ fn)

/-- The word of an instruction, from the formats of R77 and the fixed digits of R80. -/
def encode : Instr → Word
  | .cls => 0x00E0
  | .ret => 0x00EE
  | .jp nnn => formatA 0x1 nnn
  | .call nnn => formatA 0x2 nnn
  | .seImm x kk => formatI 0x3 x kk
  | .sneImm x kk => formatI 0x4 x kk
  | .seReg x y => formatR 0x5 x y 0x0
  | .ldImm x kk => formatI 0x6 x kk
  | .addImm x kk => formatI 0x7 x kk
  | .ldReg x y => formatR 0x8 x y 0x0
  | .orReg x y => formatR 0x8 x y 0x1
  | .andReg x y => formatR 0x8 x y 0x2
  | .xorReg x y => formatR 0x8 x y 0x3
  | .addReg x y => formatR 0x8 x y 0x4
  | .subReg x y => formatR 0x8 x y 0x5
  | .shr x y => formatR 0x8 x y 0x6
  | .subnReg x y => formatR 0x8 x y 0x7
  | .shl x y => formatR 0x8 x y 0xE
  | .sneReg x y => formatR 0x9 x y 0x0
  | .ldI nnn => formatA 0xA nnn
  | .jpV0 nnn => formatA 0xB nnn
  | .rnd x kk => formatI 0xC x kk
  | .drw x y n => formatR 0xD x y n
  | .skp x => formatX 0xE x 0x9E
  | .sknp x => formatX 0xE x 0xA1
  | .ldVxDt x => formatX 0xF x 0x07
  | .ldVxK x => formatX 0xF x 0x0A
  | .ldDtVx x => formatX 0xF x 0x15
  | .ldStVx x => formatX 0xF x 0x18
  | .addI x => formatX 0xF x 0x1E
  | .ldF x => formatX 0xF x 0x29
  | .ldB x => formatX 0xF x 0x33
  | .storeRegs x => formatX 0xF x 0x55
  | .loadRegs x => formatX 0xF x 0x65

end Sys2Proof
end

