-- ==== Sys2Proof/Config.lean ====
section
/-! DEFINITION. What is fixed for this machine (R8) and the free values of its environment (R15, R38). -/

namespace Sys2Proof

/-- The configuration values of R8. -/
structure Params where
  /-- `CPF`, instructions per frame tick (R8, R265). -/
  cpf : Nat
  /-- `STACK_DEPTH`, entries of the call stack (R8, R27). -/
  stackDepth : Nat
  /-- `FRAME_HZ`, rate of the external frame tick: no rule depends on it (R8, R266). -/
  frameHz : Nat
  /-- `FONT`, the 80 bytes at 0x000..0x04F after reset (R8, R36). -/
  font : List Byte
deriving DecidableEq, Repr

/-- Glyphs 0 to 3 of R36. -/
def Config.glyphs0to3 : List Byte :=
  [0xF0, 0x90, 0x90, 0x90, 0xF0] ++ [0x20, 0x60, 0x20, 0x20, 0x70] ++
  [0xF0, 0x10, 0xF0, 0x80, 0xF0] ++ [0xF0, 0x10, 0xF0, 0x10, 0xF0]

/-- Glyphs 4 to 7 of R36. -/
def Config.glyphs4to7 : List Byte :=
  [0x90, 0x90, 0xF0, 0x10, 0x10] ++ [0xF0, 0x80, 0xF0, 0x10, 0xF0] ++
  [0xF0, 0x80, 0xF0, 0x90, 0xF0] ++ [0xF0, 0x10, 0x20, 0x40, 0x40]

/-- Glyphs 8 to B of R36. -/
def Config.glyphs8toB : List Byte :=
  [0xF0, 0x90, 0xF0, 0x90, 0xF0] ++ [0xF0, 0x90, 0xF0, 0x10, 0xF0] ++
  [0xF0, 0x90, 0xF0, 0x90, 0x90] ++ [0xE0, 0x90, 0xE0, 0x90, 0xE0]

/-- Glyphs C to F of R36. -/
def Config.glyphsCtoF : List Byte :=
  [0xF0, 0x80, 0x80, 0x80, 0xF0] ++ [0xE0, 0x90, 0x90, 0x90, 0xE0] ++
  [0xF0, 0x80, 0xF0, 0x80, 0xF0] ++ [0xF0, 0x80, 0xF0, 0x80, 0x80]

/-- The values this hardware takes (R8). Log 14: the four are configuration, not facts about the source. -/
def Config.hw : Params where
  cpf := 15
  stackDepth := 16
  frameHz := 60
  font := Config.glyphs0to3 ++ Config.glyphs4to7 ++ Config.glyphs8toB ++ Config.glyphsCtoF

/-- `PROG_BASE`, the entry and load address (R7, R251, R255). -/
def Config.progBase : Nat := 0x200

/-- The longest image the load contract admits, `4096 - 0x200` (R255). -/
def Config.maxImage : Nat := 3584

/- The free values (log 2): what the environment presents at step number `t` when `State.env` holds no sample
for that step. They have no body, so no proof can see what they are. -/

/-- The input `key_held[15:0]` (R232) at step `t`: a free value. -/
opaque Config.freeKeyHeld : Nat → BitVec 16

/-- The input `key_last_valid` (R232) at step `t`: a free value. -/
opaque Config.freeKeyLastValid : Nat → Bool

/-- The input `key_last[3:0]` (R232) at step `t`: a free value. -/
opaque Config.freeKeyLast : Nat → BitVec 4

/-- The input `rand[7:0]` (R233) at step `t`: a free value, a fresh one at every step. -/
opaque Config.freeRand : Nat → Byte

end Sys2Proof
end

