-- ==== Sys2Proof/Machine/State.lean ====
section
/-! DEFINITION. The machine's state as plain data (10_state.md, R20 to R39), the ways a step can stop, and the state
after reset. -/

namespace Sys2Proof.Machine

/-- `MODE` (R30): `RUN`, or `WAITKEY(x)` with the register number of the Fx0A that waits. -/
inductive Mode where
  | run
  | waitKey (x : Reg)
deriving DecidableEq, Repr

/-- `PHASE` of the frame cadence controller (R31). -/
inductive Phase where
  /-- between frame ticks -/
  | idle
  /-- a frame tick is in progress -/
  | burst
  /-- a fatal condition occurred -/
  | halted
deriving DecidableEq, Repr

/-- One sample of the input ports (R230): what the environment presents during one step. -/
structure Inputs where
  reset : Bool
  tick : Bool
  keyHeld : BitVec 16
  keyLastValid : Bool
  keyLast : BitVec 4
  rand : Byte
  loadEn : Bool
  loadAddr : Addr
  loadData : Byte
deriving DecidableEq, Repr

/-- Main memory: the cells that differ from their reset contents, in the canonical form `Memory.wf`. -/
abbrev Memory := List Host.Cell

/-- The state of the core, and below it the model's own view of the environment (log 1). -/
structure State where
  /-- `V0` to `VF` (R20) -/
  v : Vector Byte 16
  /-- `I` (R24) -/
  i : Addr
  /-- `PC` (R25) -/
  pc : Addr
  /-- `Stack`, the top last (R12, R27); `SP` is its length (R28) -/
  stack : List Addr
  /-- `DT` (R29) -/
  dt : Byte
  /-- `ST` (R29) -/
  st : Byte
  /-- `MODE` (R30) -/
  mode : Mode
  /-- `PHASE` (R31) -/
  phase : Phase
  /-- `CYC` (R31) -/
  cyc : Nat
  /-- `FATAL` (R32) -/
  fatal : BitVec 2
  /-- `FATAL_PC` (R32) -/
  fatalPc : Addr
  /-- `FATAL_INFO` (R32) -/
  fatalInfo : Addr
  /-- `TONE` (R37) -/
  tone : Bool
  /-- `DIAG_VALID` (R37) -/
  diagValid : Bool
  /-- `DIAG_OPCODE` (R37) -/
  diagOpcode : Word
  /-- `DIAG_PC` (R37) -/
  diagPc : Addr
  /-- `FRAME_DONE` (R37) -/
  frameDone : Bool
  /-- `MEM` (R35) -/
  mem : Memory
  /-- `FB` (R33) -/
  fb : FrameBuf
  /-- no tick has been accepted since reset, so the load port's window in IDLE is open (R236, log 9) -/
  loadOpen : Bool
  /-- the model's own: the input samples of the coming steps, oldest first (log 1) -/
  env : List Inputs
  /-- the model's own: how many steps have been taken, the argument of the free values (log 1, log 2) -/
  clock : Nat
deriving DecidableEq, Repr

/-- Why the machine stops with a fault. The spec's own fatal conditions are not here: they are next states with
`PHASE = HALTED` (R212, R213, log 3). -/
inductive Fault where
  /-- Raised by the step alone, in a state that none of R222's cases covers (`PHASE = BURST` and `CYC > CPF`), which
  no run reaches. Safe: nothing is claimed of such a state (log 11). -/
  | noStepEnabled
deriving DecidableEq, Repr

/-- Why the machine refuses to go on. -/
inductive Refusal where
  /-- Raised by an arm of `exec` for an instruction that has no meaning yet; no arm is left. Safe. -/
  | notModelled (mnemonic : String)
deriving DecidableEq, Repr

/-- What a step or an instruction answers. -/
abbrev Result := Host.Outcome State Fault Refusal

/-- The state right after reset (R39, R250). Memory lists nothing: every address reads as its reset contents.
`diagOpcode` and `diagPc` are a DESIGN CHOICE (log 6: unspecified while `DIAG_VALID = 0`), and so are the model's own
`env` and `clock` (log 1). -/
def State.reset : State where
  v := Vector.replicate 16 0
  i := 0
  pc := 0x200
  stack := []
  dt := 0
  st := 0
  mode := .run
  phase := .idle
  cyc := 0
  fatal := 0
  fatalPc := 0
  fatalInfo := 0
  tone := false
  diagValid := false
  diagOpcode := 0
  diagPc := 0
  frameDone := false
  mem := []
  fb := 0
  loadOpen := true
  env := []
  clock := 0

end Sys2Proof.Machine
end

