-- ==== Sys2Proof/Machine/Memory.lean ====
section
/-! DEFINITION. Main memory (20_memory.md): what an unlisted address reads as, reading and writing one byte, and the
canonical form. -/

namespace Sys2Proof.Machine

/-- R52: every address is reduced modulo 4096 before use. -/
def wrapAddr (a : Nat) : Nat := a % 4096

/-- What an address that nothing has written reads as: the reset contents, `FONT` at 0x000..0x04F and 0x00 elsewhere
(R39, R58, log 12). -/
def Memory.default (a : Nat) : Byte := Config.hw.font.getD a 0

/-- The byte listed for the address `a`, or what an unlisted address reads as. -/
def Memory.lookup (a : Nat) : Memory → Byte
  | [] => Memory.default a
  | (b, w) :: rest => if a = b then w else Memory.lookup a rest

/-- List the byte `v` for the address `a`, keeping addresses rising and listing nothing that equals the default. -/
def Memory.insert (a : Nat) (v : Byte) : Memory → Memory
  | [] => if v = Memory.default a then [] else [(a, v)]
  | (b, w) :: rest =>
    if a < b then
      if v = Memory.default a then (b, w) :: rest else (a, v) :: (b, w) :: rest
    else if a = b then
      if v = Memory.default a then rest else (a, v) :: rest
    else (b, w) :: Memory.insert a v rest

/-- `MemRead(addr, 1)` (R50): never fails. -/
def Memory.read (m : Memory) (a : Nat) : Byte := Memory.lookup (wrapAddr a) m

/-- `MemWrite(addr, 1, v)` (R51): never fails, and every address is writable (R59). -/
def Memory.write (m : Memory) (a : Nat) (v : Byte) : Memory := Memory.insert (wrapAddr a) v m

/-- The canonical form: addresses strictly rising and below 4096, and no entry that equals the default. -/
abbrev Memory.wf (m : Memory) : Prop :=
  m.Pairwise (fun c d => c.1 < d.1) ∧ ∀ c ∈ m, c.1 < 4096 ∧ c.2 ≠ Memory.default c.1

/-- Consecutive bytes written upwards from the address `a` (the program load of R255). -/
def Memory.writeBytes (m : Memory) (a : Nat) : List Byte → Memory
  | [] => m
  | b :: bs => Memory.writeBytes (m.write a b) (a + 1) bs

/-- `Fetch16(a)` (R53): the byte at the lower address is the high half. -/
def fetch16 (m : Memory) (a : Nat) : Word := m.read a ++ m.read (a + 1)

end Sys2Proof.Machine
end

