-- ==== Sys2Proof/Machine/Operands.lean ====
section
/-! DEFINITION. Every operand form: general registers, register ranges, the one addressing mode, and the sampled
inputs. -/

namespace Sys2Proof.Machine

/-- `V[r]` (R12, R20): no register is hard-wired. -/
def State.getV (s : State) (r : Reg) : Byte := s.v[r.val]

/-- `V[r] <- b` (R12, R20). -/
def State.setV (s : State) (r : Reg) (b : Byte) : State := { s with v := s.v.set r.val b }

/-- All register numbers, rising. -/
def allRegs : List Reg := [0, 1, 2, 3, 4, 5, 6, 7, 8, 9, 10, 11, 12, 13, 14, 15]

/-- The range `V[0]..V[x]` of Fx55 and Fx65, inclusive of `x`, rising (R78, R154, R155). -/
def regsUpTo (x : Reg) : List Reg := allRegs.filter (· ≤ x)

/-- The one addressing mode for data (R156): element `k` of the data at `base` is at `(base + k) mod 4096`. -/
def dataAddr (base : Addr) (k : Nat) : Nat := wrapAddr (base.toNat + k)

/-- What the environment presents at step `t` when no sample is given for it (log 1, log 2): free keys and a free
random byte; no reset and no load; and the frame driver asks for its tick (R223: "a step of the environment that
fairness eventually grants"). -/
def Inputs.free (t : Nat) : Inputs where
  reset := false
  tick := true
  keyHeld := Config.freeKeyHeld t
  keyLastValid := Config.freeKeyLastValid t
  keyLast := Config.freeKeyLast t
  rand := Config.freeRand t
  loadEn := false
  loadAddr := 0
  loadData := 0

/-- The input ports during the coming step (R15: every sample is the environment's). -/
def State.inputs (s : State) : Inputs :=
  match s.env with
  | [] => Inputs.free s.clock
  | sample :: _ => sample

/-- `KeyHeld(k)` (R15, R232): false for `k > 15`. -/
def State.isKeyHeld (s : State) (k : Byte) : Bool :=
  decide (k.toNat ≤ 15) && s.inputs.keyHeld.getLsbD k.toNat

/-- `KeyLast()` (R15, R232): none while `key_last_valid` is 0. -/
def State.lastKey (s : State) : Option (BitVec 4) :=
  if s.inputs.keyLastValid then some s.inputs.keyLast else none

/-- `Rand()` (R15, R233): the byte the environment presents in this step. -/
def State.randByte (s : State) : Byte := s.inputs.rand

end Sys2Proof.Machine
end

