-- ==== Sys2Proof/Machine/Flags.lean ====
section
/-! DEFINITION. The one flag, `VF` (R22): every value an instruction writes to it, and the order of the result and the
flag (R23, R122). -/

namespace Sys2Proof.Machine

/-- A flag as the byte `VF` holds: 0 or 1 (R22). -/
def flagByte (f : Bool) : Byte := if f then 1 else 0

/-- The carry of 8xy4: the sum exceeds 255 (R127). -/
def carryFlag (a b : Byte) : Bool := decide (a.toNat + b.toNat > 255)

/-- The flag of 8xy5 and, with its operands exchanged, of 8xy7: strictly greater (R128, R130). -/
def greaterFlag (a b : Byte) : Bool := decide (a.toNat > b.toNat)

/-- The bit 8xy6 shifts out, bit 0 (R129). -/
def lowBitFlag (a : Byte) : Bool := a.getLsbD 0

/-- The bit 8xyE shifts out, bit 7 (R131). -/
def highBitFlag (a : Byte) : Bool := a.getLsbD 7

/-- `V[x] <- r`, then `V[0xF] <- f`: with `x = 0xF` the flag stays and the result is lost (R23, R122). -/
def State.setResultThenFlag (s : State) (x : Reg) (r : Byte) (f : Bool) : State :=
  (s.setV x r).setV regF (flagByte f)

end Sys2Proof.Machine
end

