-- ==== Sys2Proof/WellFormed.lean ====
section
/-! DEFINITION. The checks on what a run is given: the configuration (R8) and the program image (R255). An instruction
needs none: its operands have the widths of R76, so every term of `Instr` is well formed. -/

namespace Sys2Proof

/-- R8: `CPF >= 1`, `STACK_DEPTH >= 1`, and R7: the font has 80 bytes. -/
def Params.wf (c : Params) : Bool :=
  decide (1 ≤ c.cpf) && decide (1 ≤ c.stackDepth) && decide (c.font.length = 80)

/-- R255: the host must ensure `L <= 3584`; a longer image has no meaning and is refused (log 18). -/
def imageWf (image : List Byte) : Bool :=
  decide (image.length ≤ Config.maxImage)

end Sys2Proof
end

