-- ==== Sys2Proof/Machine/Ops.lean ====
section
/-! DEFINITION. The named operations the instructions and the step machine share: the program counter, the call stack,
taking a fatal condition, the diagnostic, and the host's program load. -/

namespace Sys2Proof.Machine

/-- `PC <- a` (R12). -/
def State.setPc (s : State) (a : Addr) : State := { s with pc := a }

/-- `I <- a` (R12). -/
def State.setI (s : State) (a : Addr) : State := { s with i := a }

/-- `PC <- (PC + 2) mod 4096`, the fetch's advance (R221) and a taken skip (R100). -/
def State.advancePc (s : State) : State := s.setPc (s.pc + 2)

/-- R100: skip the next instruction when `c` holds. -/
def State.skipIf (s : State) (c : Bool) : State := if c then s.advancePc else s

/-- `MemRead` on the state (R50). -/
def State.memRead (s : State) (a : Nat) : Byte := s.mem.read a

/-- `MemWrite` on the state (R51). -/
def State.memWrite (s : State) (a : Nat) (b : Byte) : State := { s with mem := s.mem.write a b }

/-- `push(v)` (R12, R28). -/
def State.push (s : State) (a : Addr) : State := { s with stack := s.stack ++ [a] }

/-- `len(Stack)`, the stack pointer (R12, R28). -/
def State.sp (s : State) : Nat := s.stack.length

/-- The value `pop()` returns (R12, R28): none on an empty stack. -/
def State.top (s : State) : Option Addr := s.stack.getLast?

/-- What `pop()` leaves (R12, R28). -/
def State.dropTop (s : State) : State := { s with stack := s.stack.dropLast }

/-- `FATAL` for StackUnderflow (R211). -/
def codeUnderflow : BitVec 2 := 1

/-- `FATAL` for StackOverflow (R211). -/
def codeOverflow : BitVec 2 := 2

/-- The address `A` the executing instruction was fetched from: `PC` holds `(A + 2) mod 4096` while it executes (R16,
R25, log 4). -/
def State.fetchedFrom (s : State) : Addr := s.pc - 2

/-- Taking a fatal condition (R212, R213, R218): `FATAL`, `FATAL_PC = A` and `FATAL_INFO` are written and
`PHASE <- HALTED`. Nothing else changes: `PC` keeps `(A + 2) mod 4096`, and there is no handler to go to. -/
def State.raiseFatal (s : State) (code : BitVec 2) (info : Addr) : State :=
  { s with fatal := code, fatalPc := s.fetchedFrom, fatalInfo := info, phase := .halted }

/-- The diagnostic of an unrecognised word (R214). -/
def State.raiseDiagnostic (s : State) (op : Word) : State :=
  { s with diagValid := true, diagOpcode := op, diagPc := s.fetchedFrom }

/-- The one-step pulses fall (R37, R221, log 5). -/
def State.clearPulses (s : State) : State := { s with diagValid := false, frameDone := false }

/-- The state right after reset on a machine with the configuration `c` (R8, R39): `FONT` at 0x000 and up. Memory
lists what differs from this hardware's reset contents, so for `Config.hw` it lists nothing (log 12, log 14). -/
def State.resetIn (c : Params) : State := { State.reset with mem := Memory.writeBytes [] 0 c.font }

/-- The host's program load (R236, R255): byte `j` of the image goes to `0x200 + j`, and an image that is too long is
refused (log 18). The rules put the load before the first tick after reset; that this operation, the host's own and no
step of the machine, writes the bytes in any state it is applied to is the model's choice (log 20). -/
def State.loadProgram (s : State) (image : List Byte) : Option State :=
  if imageWf image then some { s with mem := s.mem.writeBytes Config.progBase image } else none

/-- The boot order of R256, (1) to (3): the state a run starts from, on a machine with the configuration `c` and with
the image loaded. A configuration that R8 excludes starts no run. -/
def State.boot (c : Params) (image : List Byte) : Option State :=
  if c.wf then (State.resetIn c).loadProgram image else none

/-- The output ports (R230). -/
structure Outputs where
  fb : FrameBuf
  tone : Bool
  frameDone : Bool
  diagValid : Bool
  diagOpcode : Word
  diagPc : Addr
  fatal : BitVec 2
  fatalPc : Addr
  fatalInfo : Addr
  waiting : Bool
deriving DecidableEq, Repr

/-- `waiting`: 1 while `MODE = WAITKEY` (R230, R235). -/
def State.waiting (s : State) : Bool :=
  match s.mode with
  | .run => false
  | .waitKey _ => true

/-- What the collaborators see (R226, R227, R230, R231, R234, R235). -/
def State.outputs (s : State) : Outputs where
  fb := s.fb
  tone := s.tone
  frameDone := s.frameDone
  diagValid := s.diagValid
  diagOpcode := s.diagOpcode
  diagPc := s.diagPc
  fatal := s.fatal
  fatalPc := s.fatalPc
  fatalInfo := s.fatalInfo
  waiting := s.waiting

end Sys2Proof.Machine
end

