-- ==== Sys2Proof/Machine/Alu.lean ====
section
/-! DEFINITION. Load, arithmetic, logic, shift and random (41_alu.md). Operands are sampled before any write (R26,
R122), results are computed exactly and then narrowed (R11). -/

namespace Sys2Proof.Machine

/-- `6xkk` LD Vx, kk (R120). -/
def execLdImm (x : Reg) (kk : Byte) (s : State) : Result := .next (s.setV x kk)

/-- `7xkk` ADD Vx, kk (R121): no flag. -/
def execAddImm (x : Reg) (kk : Byte) (s : State) : Result := .next (s.setV x (s.getV x + kk))

/-- `8xy0` LD Vx, Vy (R123). -/
def execLdReg (x y : Reg) (s : State) : Result := .next (s.setV x (s.getV y))

/-- `8xy1` OR Vx, Vy (R124): no flag. -/
def execOrReg (x y : Reg) (s : State) : Result := .next (s.setV x (s.getV x ||| s.getV y))

/-- `8xy2` AND Vx, Vy (R125): no flag. -/
def execAndReg (x y : Reg) (s : State) : Result := .next (s.setV x (s.getV x &&& s.getV y))

/-- `8xy3` XOR Vx, Vy (R126): no flag. -/
def execXorReg (x y : Reg) (s : State) : Result := .next (s.setV x (s.getV x ^^^ s.getV y))

/-- `8xy4` ADD Vx, Vy (R127): `VF` is the carry. -/
def execAddReg (x y : Reg) (s : State) : Result :=
  .next (s.setResultThenFlag x (s.getV x + s.getV y) (carryFlag (s.getV x) (s.getV y)))

/-- `8xy5` SUB Vx, Vy (R128): `VF` is `Vx > Vy`. -/
def execSubReg (x y : Reg) (s : State) : Result :=
  .next (s.setResultThenFlag x (s.getV x - s.getV y) (greaterFlag (s.getV x) (s.getV y)))

/-- `8xy6` SHR Vx (R129): `VF` is the bit shifted out; `y` has no effect. -/
def execShr (x _y : Reg) (s : State) : Result :=
  .next (s.setResultThenFlag x (s.getV x >>> 1) (lowBitFlag (s.getV x)))

/-- `8xy7` SUBN Vx, Vy (R130): `VF` is `Vy > Vx`. -/
def execSubnReg (x y : Reg) (s : State) : Result :=
  .next (s.setResultThenFlag x (s.getV y - s.getV x) (greaterFlag (s.getV y) (s.getV x)))

/-- `8xyE` SHL Vx (R131): `VF` is the bit shifted out; `y` has no effect. -/
def execShl (x _y : Reg) (s : State) : Result :=
  .next (s.setResultThenFlag x (s.getV x <<< 1) (highBitFlag (s.getV x)))

/-- `Cxkk` RND Vx, kk (R132): the byte the environment presents in this step, masked. -/
def execRnd (x : Reg) (kk : Byte) (s : State) : Result := .next (s.setV x (s.randByte &&& kk))

end Sys2Proof.Machine
end

