-- ==== Sys2Proof/Machine/Display.lean ====
section
/-! DEFINITION. The display surface, clear and draw (43_display.md). -/

namespace Sys2Proof.Machine

/-- The cell a coordinate pair addresses (R170, R172): each coordinate is wrapped on its own, negative ones too. -/
def cellIndex (px py : Int) : Nat := (py % 32).toNat * 64 + (px % 64).toNat

/-- `clear()` (R171). -/
def clearCells : FrameBuf := 0

/-- `togglePixel(px, py)` (R172): the flipped framebuffer, and whether the cell was set before the flip. -/
def togglePixel (px py : Int) (fb : FrameBuf) : FrameBuf × Bool :=
  (fb ^^^ BitVec.twoPow 2048 (cellIndex px py), fb.getLsbD (cellIndex px py))

/-- One set sprite pixel: flip the cell and add its collision to those so far (R174, R177). -/
def plot (px py : Nat) (acc : FrameBuf × Bool) : FrameBuf × Bool :=
  ((togglePixel px py acc.1).1, acc.2 || (togglePixel px py acc.1).2)

/-- One sprite row: bit `7 - c` of the byte is the pixel at column `ox + c` (R174, R175). -/
def drawRow (ox py : Nat) (b : Byte) (acc : FrameBuf × Bool) : FrameBuf × Bool :=
  (List.range 8).foldl (fun acc c => if b.getLsbD (7 - c) then plot (ox + c) py acc else acc) acc

/-- The rows `0..n-1` of a sprite (R174): row `r` is the byte `rowByte r`, drawn at row `oy + r`. -/
def drawSprite (ox oy n : Nat) (rowByte : Nat → Byte) (fb : FrameBuf) : FrameBuf × Bool :=
  (List.range n).foldl (fun acc r => drawRow ox (oy + r) (rowByte r) acc) (fb, false)

/-- Sprite row `r`, the byte at `(I + r) mod 4096` (R156, R175). -/
def State.spriteRow (s : State) (r : Nat) : Byte := s.memRead (dataAddr s.i r)

/-- What Dxyn makes of the framebuffer, and whether any pixel collided (R174); the coordinates and the base are the
values before the instruction (R26, R178, log 17). -/
def State.drawn (s : State) (x y : Reg) (n : BitVec 4) : FrameBuf × Bool :=
  drawSprite (s.getV x).toNat (s.getV y).toNat n.toNat s.spriteRow s.fb

/-- `00E0` CLS (R173). -/
def execCls (s : State) : Result := .next { s with fb := clearCells }

/-- `Dxyn` DRW Vx, Vy, n (R174): `VF` ends as 1 exactly when some pixel collided (R177). -/
def execDrw (x y : Reg) (n : BitVec 4) (s : State) : Result :=
  .next (({ s with fb := (s.drawn x y n).1 } : State).setV regF (flagByte (s.drawn x y n).2))

end Sys2Proof.Machine
end

