-- ==== Sys2Proof/Machine/Flow.lean ====
section
/-! DEFINITION. Control transfer (40_flow.md). Every meaning is the execute phase: `PC` already holds `(A + 2) mod 4096`
(R16). -/

namespace Sys2Proof.Machine

/-- `00EE` RET (R101): pop into `PC`, or StackUnderflow on an empty stack (R212). -/
def execRet (s : State) : Result :=
  .next (match s.top with
    | none => s.raiseFatal codeUnderflow 0
    | some a => s.dropTop.setPc a)

/-- `1nnn` JP nnn (R102). -/
def execJp (nnn : Addr) (s : State) : Result := .next (s.setPc nnn)

/-- CALL nnn (R103) on a machine with the configuration `c`: push the advanced `PC`, or StackOverflow on a stack of
`STACK_DEPTH` entries (R213). -/
def callIn (c : Params) (nnn : Addr) (s : State) : Result :=
  .next (if s.sp = c.stackDepth then s.raiseFatal codeOverflow nnn else (s.push s.pc).setPc nnn)

/-- `2nnn` CALL nnn (R103) on this hardware. -/
def execCall (nnn : Addr) (s : State) : Result := callIn Config.hw nnn s

/-- `3xkk` SE Vx, kk (R104). -/
def execSeImm (x : Reg) (kk : Byte) (s : State) : Result := .next (s.skipIf (s.getV x == kk))

/-- `4xkk` SNE Vx, kk (R105). -/
def execSneImm (x : Reg) (kk : Byte) (s : State) : Result := .next (s.skipIf (s.getV x != kk))

/-- `5xy0` SE Vx, Vy (R106). -/
def execSeReg (x y : Reg) (s : State) : Result := .next (s.skipIf (s.getV x == s.getV y))

/-- `9xy0` SNE Vx, Vy (R107). -/
def execSneReg (x y : Reg) (s : State) : Result := .next (s.skipIf (s.getV x != s.getV y))

/-- `Bnnn` JP V0, nnn (R108): the sum is reduced to 12 bits. -/
def execJpV0 (nnn : Addr) (s : State) : Result :=
  .next (s.setPc (BitVec.ofNat 12 (nnn.toNat + (s.getV 0).toNat)))

end Sys2Proof.Machine
end

