-- ==== Sys2Proof/Machine/IndexMemory.lean ====
section
/-! DEFINITION. The index register and the transfers between registers and memory (42_index_memory.md). `I` is read
once and never changed by a transfer (R156). -/

namespace Sys2Proof.Machine

/-- `Annn` LD I, nnn (R150). -/
def execLdI (nnn : Addr) (s : State) : Result := .next (s.setI nnn)

/-- `Fx1E` ADD I, Vx (R151): the sum is reduced to 12 bits; no flag. -/
def execAddI (x : Reg) (s : State) : Result :=
  .next (s.setI (BitVec.ofNat 12 (s.i.toNat + (s.getV x).toNat)))

/-- `Fx29` LD F, Vx (R152): the whole byte times 5, at most 1275. -/
def execLdF (x : Reg) (s : State) : Result := .next (s.setI (BitVec.ofNat 12 ((s.getV x).toNat * 5)))

/-- The decimal digits of a byte, hundreds first (R153). -/
def bcdDigits (v : Byte) : List Byte :=
  [BitVec.ofNat 8 (v.toNat / 100), BitVec.ofNat 8 (v.toNat / 10 % 10), BitVec.ofNat 8 (v.toNat % 10)]

/-- `Fx33` LD B, Vx (R153): the digits at `I`, `I + 1`, `I + 2`. -/
def execLdB (x : Reg) (s : State) : Result :=
  .next { s with mem := s.mem.writeBytes s.i.toNat (bcdDigits (s.getV x)) }

/-- `for i in 0..x: MemWrite(I + i, 1, V[i])` (R154). -/
def storeRange (s : State) (rs : List Reg) (m : Memory) : Memory :=
  rs.foldl (fun m r => m.write (dataAddr s.i r.val) (s.getV r)) m

/-- `Fx55` LD [I], Vx (R154). -/
def execStoreRegs (x : Reg) (s : State) : Result :=
  .next { s with mem := storeRange s (regsUpTo x) s.mem }

/-- `for i in 0..x: V[i] <- MemRead(I + i, 1)` (R155), every byte read at the base the instruction sampled. -/
def loadRange (s : State) (rs : List Reg) (t : State) : State :=
  rs.foldl (fun t r => t.setV r (s.memRead (dataAddr s.i r.val))) t

/-- `Fx65` LD Vx, [I] (R155). -/
def execLoadRegs (x : Reg) (s : State) : Result := .next (loadRange s (regsUpTo x) s)

end Sys2Proof.Machine
end

