-- ==== Sys2Proof/Machine/KeypadTimers.lean ====
section
/-! DEFINITION. Keypad and timer instructions (44_keypad_timers.md). -/

namespace Sys2Proof.Machine

/-- A key code as the byte a register receives: 0..15 (R192). -/
def keyByte (c : BitVec 4) : Byte := c.setWidth 8

/-- `Ex9E` SKP Vx (R190). -/
def execSkp (x : Reg) (s : State) : Result := .next (s.skipIf (s.isKeyHeld (s.getV x)))

/-- `ExA1` SKNP Vx (R191). -/
def execSknp (x : Reg) (s : State) : Result := .next (s.skipIf (!s.isKeyHeld (s.getV x)))

/-- `Fx0A` LD Vx, K (R192): capture the last key, or wait for one. -/
def execLdVxK (x : Reg) (s : State) : Result :=
  .next (match s.lastKey with
    | some c => s.setV x (keyByte c)
    | none => { s with mode := .waitKey x })

/-- `Fx07` LD Vx, DT (R194). -/
def execLdVxDt (x : Reg) (s : State) : Result := .next (s.setV x s.dt)

/-- `Fx15` LD DT, Vx (R195). -/
def execLdDtVx (x : Reg) (s : State) : Result := .next { s with dt := s.getV x }

/-- `Fx18` LD ST, Vx (R196). -/
def execLdStVx (x : Reg) (s : State) : Result := .next { s with st := s.getV x }

end Sys2Proof.Machine
end

