-- ==== Sys2Proof/Machine/Cycle.lean ====
section
/-! DEFINITION. The step machine (60_exceptions.md, sections 4 and 5; 44_keypad_timers.md R193; 70_reset_and_hazards.md
R250): which step is enabled, and what each does. -/

namespace Sys2Proof.Machine

/-- The step is over: the sample it used is gone, and the environment presents the next one (R6, R15, log 1). -/
def State.passTime (s : State) : State := { s with env := s.env.tail, clock := s.clock + 1 }

/-- When the load port may be used without reset (R236): in IDLE, before the first tick after reset. -/
def State.loadWindow (s : State) : Bool := decide (s.phase = .idle) && s.loadOpen

/-- The load port of R230 and R236: `MEM[load_addr] <- load_data` while `load_en` is 1. -/
def State.applyLoad (s : State) (p : Inputs) : State :=
  if p.loadEn then s.memWrite p.loadAddr.toNat p.loadData else s

/-- The load port in a step without reset: served in its window, and without effect at any other time (R236, R6, R217,
log 9). -/
def State.serveLoad (s : State) (p : Inputs) : State := if s.loadWindow then s.applyLoad p else s

/-- Reset (R250, R252): every value of R39, the environment untouched, and a byte of the load port on top (R236,
log 8). -/
def State.takeReset (c : Params) (s : State) (p : Inputs) : State :=
  ({ State.resetIn c with env := s.env, clock := s.clock } : State).applyLoad p

/-- IDLE (R222 (c), R223): a tick starts a burst, and without one all state stays. The load port is served first
(R236, log 10). -/
def State.idleStep (s : State) (p : Inputs) : State :=
  if p.tick then { s.serveLoad p with phase := .burst, cyc := 0, loadOpen := false } else s.serveLoad p

/-- A timer at the end of a frame: down by one, and never below zero (R225). -/
def countDown (t : Byte) : Byte := if t.toNat > 0 then t - 1 else t

/-- The frame-end step (R224): both timers, then `TONE` from the decremented `ST`, then the render handoff. -/
def State.frameEnd (s : State) : State :=
  { s with
    dt := countDown s.dt
    st := countDown s.st
    tone := decide ((countDown s.st).toNat > 0)
    frameDone := true
    phase := .idle
    cyc := 0 }

/-- The key-wait poll step (R193): capture the key and count the Fx0A as completed, or change nothing. -/
def State.pollStep (s : State) (x : Reg) : State :=
  match s.lastKey with
  | some c => { s.setV x (keyByte c) with mode := .run, cyc := s.cyc + 1 }
  | none => s

/-- The end of the instruction step (R221): the instruction counts unless it raised a fatal condition or waits. -/
def State.countCompleted (s : State) : State :=
  if s.phase ≠ .halted ∧ s.mode = .run then { s with cyc := s.cyc + 1 } else s

/-- The fetch of R221 done: `PC` advanced and `DIAG_VALID` cleared. -/
def State.fetched (s : State) : State := s.clearPulses.advancePc

/-- The execute phase's answer, carried to the end of the instruction step. -/
def afterExec : Result → Result
  | .next t => .next t.countCompleted.passTime
  | .fault f => .fault f
  | .refused r => .refused r

/-- The execute phase on a machine with the configuration `c`: `STACK_DEPTH` is the one parameter a meaning reads, and
CALL the one instruction that reads it (R8, R103). -/
def execIn (c : Params) (i : Instr) (s : State) : Result :=
  match i with
  | .call nnn => callIn c nnn s
  | _ => exec i s

/-- The instruction step (R221): fetch at `PC`, advance, decode, execute. -/
def instructionStep (c : Params) (s : State) : Result :=
  match decodeWord (fetch16 s.mem s.pc.toNat) with
  | .instr i => afterExec (execIn c i s.fetched)
  | .unrecognized op => afterExec (.next (s.fetched.raiseDiagnostic op))

/-- The steps of a burst (R222 (d), (e), (f)). -/
def burstStep (c : Params) (s : State) : Result :=
  if s.cyc = c.cpf then .next s.clearPulses.frameEnd.passTime
  else if c.cpf < s.cyc then .fault .noStepEnabled
  else
    match s.mode with
    | .run => instructionStep c s
    | .waitKey x => .next (s.clearPulses.pollStep x).passTime

/-- Step selection (R222) on a machine with the configuration `c` (R8). In HALTED nothing happens but the passing of
time, and only reset leaves it (R217 to R219, log 3). -/
def cycle (c : Params) (s : State) : Result :=
  if s.inputs.reset then .next (State.takeReset c s s.inputs).passTime
  else
    match s.phase with
    | .halted => .next s.clearPulses.passTime
    | .idle => .next (s.clearPulses.idleStep s.inputs).passTime
    | .burst => burstStep c s

/-- The samples with reset let go in the first of them. -/
def quietFirst : List Inputs → List Inputs
  | [] => []
  | p :: rest => { p with reset := false } :: rest

/-- The state in which the very next step is an instruction step: a tick has been accepted, the burst has a slot left,
no key wait is pending, and the environment does not interfere with that step (log 15). -/
def State.readyToFetch (s : State) : State :=
  { s with
    phase := .burst
    mode := .run
    cyc := if s.cyc < Config.hw.cpf then s.cyc else 0
    loadOpen := false
    env := quietFirst s.env }

/-- The two bytes of a word stored where the next fetch reads them (R54). -/
def State.storeFetchWord (s : State) (op : Word) : State :=
  { s with mem := s.mem.writeBytes s.pc.toNat (bytesOf op) }

end Sys2Proof.Machine
end

