-- ==== Sys2Proof/Machine/Step.lean ====
section
/-! DEFINITION. One step of the machine (R222), and the state whose next step runs a given word. -/

namespace Sys2Proof.Machine

/-- One step of this hardware: exactly one of the cases of R222, with the values R8 gives. -/
def step (s : State) : Host.Outcome State Fault Refusal := cycle Config.hw s

/-- `s` with the instruction word of table number `w` stored at `PC`, ready to be fetched by the very next step. -/
def State.withFetchWord (s : State) (nbits w : Nat) : State :=
  s.readyToFetch.storeFetchWord (BitVec.ofNat 16 (w % 2 ^ nbits))

end Sys2Proof.Machine
end

