-- ==== Sys2Proof/Safety.lean ====
section
/-! DEFINITION. The terms claims are stated in: the invariant of the core, what counts as a safe state and as the end of a
run, and what it means that a part of the state is unchanged. -/

namespace Sys2Proof.Machine

/-- The invariant every step keeps on a machine with the configuration `c`: the bounds and relations the spec states of
the core's state. -/
structure InvIn (c : Params) (s : State) : Prop where
  /-- memory is in its canonical form -/
  memory : s.mem.wf
  /-- `0 <= len(Stack) <= STACK_DEPTH` (R27) -/
  stack : s.stack.length ≤ c.stackDepth
  /-- `0 <= CYC <= CPF` (R31) -/
  cyc : s.cyc ≤ c.cpf
  /-- `FATAL != 0` exactly when `PHASE = HALTED` (R32) -/
  fatal : s.fatal ≠ 0 ↔ s.phase = .halted
  /-- code 3 is never produced (R32) -/
  code : s.fatal ≠ 3
  /-- `MODE = WAITKEY(x)` implies `PHASE = BURST` and `CYC < CPF` (R222) -/
  waiting : ∀ x, s.mode = .waitKey x → s.phase = .burst ∧ s.cyc < c.cpf
  /-- in `PHASE = IDLE`, `CYC = 0` and `MODE = RUN` (R222) -/
  idle : s.phase = .idle → s.cyc = 0 ∧ s.mode = .run
  /-- the load port's window is open only in IDLE (R236) -/
  window : s.loadOpen = true → s.phase = .idle

/-- The invariant on this hardware. -/
abbrev Inv (s : State) : Prop := InvIn Config.hw s

/-- A fatal condition has stopped the core (R212, R213, R218): never a successful end (R262). -/
def Faulted (s : State) : Prop := s.phase = .halted

/-- A frame boundary, the only kind of final state a claim about a program should speak of (R262). -/
def AtFrameBoundary (s : State) : Prop := s.phase = .idle

/-- A state of a safe run: the invariant holds and no fatal condition has occurred. -/
def Safe (s : State) : Prop := Inv s ∧ ¬ Faulted s

/-- The parts of the state, one for each register, memory byte and framebuffer cell, for frame claims. -/
inductive Part where
  | reg (r : Reg)
  | index
  | pc
  | stack
  | dt
  | st
  | mode
  | phase
  | cyc
  | fatal
  | fatalPc
  | fatalInfo
  | tone
  | diagValid
  | diagOpcode
  | diagPc
  | frameDone
  | byte (a : Nat)
  | cell (k : Nat)
  | loadOpen
  | env
  | clock
deriving DecidableEq, Repr

/-- The part is the same in both states. A byte is one of the 4096 of R35, a cell one of the 2048 of R33. -/
def Part.same (s t : State) : Part → Prop
  | .reg r => t.getV r = s.getV r
  | .index => t.i = s.i
  | .pc => t.pc = s.pc
  | .stack => t.stack = s.stack
  | .dt => t.dt = s.dt
  | .st => t.st = s.st
  | .mode => t.mode = s.mode
  | .phase => t.phase = s.phase
  | .cyc => t.cyc = s.cyc
  | .fatal => t.fatal = s.fatal
  | .fatalPc => t.fatalPc = s.fatalPc
  | .fatalInfo => t.fatalInfo = s.fatalInfo
  | .tone => t.tone = s.tone
  | .diagValid => t.diagValid = s.diagValid
  | .diagOpcode => t.diagOpcode = s.diagOpcode
  | .diagPc => t.diagPc = s.diagPc
  | .frameDone => t.frameDone = s.frameDone
  | .byte a => a < 4096 → t.memRead a = s.memRead a
  | .cell k => k < 2048 → t.fb.getLsbD k = s.fb.getLsbD k
  | .loadOpen => t.loadOpen = s.loadOpen
  | .env => t.env = s.env
  | .clock => t.clock = s.clock

/-- Every part of the state is unchanged from `s` to `t`, except those `changed` names. -/
def SameExcept (changed : Part → Prop) (s t : State) : Prop := ∀ p, ¬ changed p → p.same s t

/-- A part that is one of the bytes stored to. -/
def StoredByte (addr : Nat → Nat) (n : Nat) (p : Part) : Prop := ∃ k, k < n ∧ p = .byte (addr k)

/-- `V[x]` and the flag `VF`, which the flag-writing operations write (R22, R122). -/
def ResultOrFlag (x : Reg) (p : Part) : Prop := p = .reg x ∨ p = .reg regF

/-- Any of the 2048 framebuffer cells. -/
def AnyCell (p : Part) : Prop := ∃ k, p = .cell k

/-- The four parts a fatal condition writes (R212, R213). -/
def FatalPart (p : Part) : Prop := p = .fatal ∨ p = .fatalPc ∨ p = .fatalInfo ∨ p = .phase

end Sys2Proof.Machine
end

