-- ==== Sys2Proof/Certificates/Slice0/Obligations.lean ====
section
/-! DEFINITION. What is claimed of the machine, for the provers: one `Obligations.<Name>` a claim. `SameExcept` (Safety)
says that every other part of the state, each register, byte and cell among them, is unchanged. -/

open Sys2Proof Sys2Proof.Machine

namespace Sys2Proof.Claims

/-- The next step of `s` is an instruction step (R222 (e)). -/
structure Executing (s : State) : Prop where
  noReset : s.inputs.reset = false
  burst : s.phase = .burst
  slot : s.cyc < Config.hw.cpf
  run : s.mode = .run

/-- The word the next instruction step fetches (R221). -/
def nextWord (s : State) : Word := fetch16 s.mem s.pc.toNat

/-- The state the execute phase starts from: `PC` advanced and `DIAG_VALID` cleared (R221), and the `FRAME_DONE` pulse
over (log 5). -/
def afterFetch (s : State) : State := { s with pc := s.pc + 2, diagValid := false, frameDone := false }

/-- The parts that any step may change whatever it does: the two one-step pulses (R37, log 5) and the model's own view of
the environment (log 1). -/
def EveryStep (p : Part) : Prop := p = .diagValid ∨ p = .frameDone ∨ p = .env ∨ p = .clock

/-- Both pulses are low (R37; that a step lets them fall is log 5). -/
def NoPulse (t : State) : Prop := t.diagValid = false ∧ t.frameDone = false

/-- The values of R39 and R250 that the spec gives, on a machine with the configuration `c` (R8). -/
structure ResetValues (c : Params) (t : State) : Prop where
  v : ∀ r, t.getV r = 0
  i : t.i = 0
  pc : t.pc = 0x200
  stack : t.stack = []
  timers : t.dt = 0 ∧ t.st = 0
  mode : t.mode = .run
  phase : t.phase = .idle
  cyc : t.cyc = 0
  fatal : t.fatal = 0 ∧ t.fatalPc = 0 ∧ t.fatalInfo = 0
  latches : t.tone = false ∧ t.diagValid = false ∧ t.frameDone = false
  font : ∀ a, a < 80 → t.memRead a = c.font.getD a 0
  zero : ∀ a, 80 ≤ a → a < 4096 → t.memRead a = 0
  cells : ∀ k, k < 2048 → t.fb.getLsbD k = false

/-- The memory below a loaded program: the font and the zero region (R58, R255). -/
def MemoryBelowProgram (c : Params) (t : State) : Prop :=
  (∀ a, a < 80 → t.memRead a = c.font.getD a 0) ∧ ∀ a, 80 ≤ a → a < 0x200 → t.memRead a = 0

/-- Some set bit of the sprite of Dxyn covers the cell `k` (R174 to R176): row `r` is the byte at `(I + r) mod 4096`, and
its bit `7 - c` is drawn at column `(V[x] + c) mod 64` of row `(V[y] + r) mod 32`. -/
def Covers (s : State) (x y : Reg) (n : BitVec 4) (k : Nat) : Prop :=
  ∃ r c, r < n.toNat ∧ c < 8 ∧ (s.memRead ((s.i.toNat + r) % 4096)).getLsbD (7 - c) = true ∧
    k = (((s.getV y).toNat + r) % 32) * 64 + ((s.getV x).toNat + c) % 64

/-- The registers an instruction may write, as R21 and R22 list them. -/
def WritesReg (i : Instr) (r : Reg) : Prop :=
  match i with
  | .ldImm x _ | .addImm x _ | .ldReg x _ | .orReg x _ | .andReg x _ | .xorReg x _ | .rnd x _ | .ldVxDt x
  | .ldVxK x => r = x
  | .addReg x _ | .subReg x _ | .shr x _ | .subnReg x _ | .shl x _ => r = x ∨ r = regF
  | .drw _ _ _ => r = regF
  | .loadRegs x => r ≤ x
  | _ => False

/-- The instructions that write `VF` as a flag (R22). -/
def WritesFlag (i : Instr) : Prop :=
  match i with
  | .addReg _ _ | .subReg _ _ | .shr _ _ | .subnReg _ _ | .shl _ _ | .drw _ _ _ => True
  | _ => False

/-- The instructions that read an input (R132, R190, R191, R192; R232, R233). -/
def ReadsInput (i : Instr) : Prop :=
  match i with
  | .rnd _ _ | .skp _ | .sknp _ | .ldVxK _ => True
  | _ => False

/-- A run of steps inside one burst from `s` to `t`, in which `n` instructions complete: after a completed instruction
`MODE = RUN`, and while Fx0A waits `MODE = WAITKEY` (R221, R193). -/
inductive BurstRun (c : Params) (s : State) : Nat → State → Prop where
  | start : BurstRun c s 0 s
  | completes {n t u} (h : BurstRun c s n t) (hs : cycle c t = .next u) (hp : u.phase = .burst) (hm : u.mode = .run) :
      BurstRun c s (n + 1) u
  | waits {n t u x} (h : BurstRun c s n t) (hs : cycle c t = .next u) (hp : u.phase = .burst)
      (hm : u.mode = .waitKey x) : BurstRun c s n u

/-- A sample that presents no key and no reset. -/
def QuietSample (p : Inputs) : Prop := p.reset = false ∧ p.keyLastValid = false

end Sys2Proof.Claims

open Sys2Proof.Claims

/-! Encoding -/

/-- R79, R80: decoding the word of any instruction, at every value of its operands, gives the instruction back. -/
def Obligations.DecodeOfEncode : Prop := ∀ i : Instr, decodeWord (encode i) = .instr i

/-- R79, R80: a word that decodes to an instruction is that instruction's word, so no bit of it is dropped. -/
def Obligations.EncodeOfDecode : Prop := ∀ (op : Word) (i : Instr), decodeWord op = .instr i → encode i = op

/-- R81: the unrecognised words are exactly the classes (a) to (f). -/
def Obligations.UnrecognizedWordClasses : Prop :=
  ∀ op : Word, decodeWord op = .unrecognized op ↔
    (op.toNat / 4096 = 0 ∧ op ≠ 0x00E0 ∧ op ≠ 0x00EE) ∨
    (op.toNat / 4096 = 5 ∧ op.toNat % 16 ≠ 0) ∨
    (op.toNat / 4096 = 8 ∧ op.toNat % 16 ∈ [8, 9, 10, 11, 12, 13, 15]) ∨
    (op.toNat / 4096 = 9 ∧ op.toNat % 16 ≠ 0) ∨
    (op.toNat / 4096 = 14 ∧ op.toNat % 256 ∉ [0x9E, 0xA1]) ∨
    (op.toNat / 4096 = 15 ∧ op.toNat % 256 ∉ [0x07, 0x0A, 0x15, 0x18, 0x1E, 0x29, 0x33, 0x55, 0x65])

/-- R79: no word matches two rows of the opcode map. -/
def Obligations.NoWordMatchesTwoRows : Prop := ∀ op : Word, (rows.filter (·.matches op)).length ≤ 1

/-- R80: words written out from the opcode map, one or more for each family, and one that is unrecognised (R81). -/
def Obligations.SampleWordsDecode : Prop :=
  decodeWord 0x00E0 = .instr .cls ∧ decodeWord 0x00EE = .instr .ret ∧ decodeWord 0x1ABC = .instr (.jp 0xABC) ∧
  decodeWord 0x3A42 = .instr (.seImm 0xA 0x42) ∧ decodeWord 0x9120 = .instr (.sneReg 1 2) ∧
  decodeWord 0x8127 = .instr (.subnReg 1 2) ∧ decodeWord 0x812E = .instr (.shl 1 2) ∧
  decodeWord 0xC10F = .instr (.rnd 1 0x0F) ∧ decodeWord 0xD12F = .instr (.drw 1 2 0xF) ∧
  decodeWord 0xE39E = .instr (.skp 3) ∧ decodeWord 0xF433 = .instr (.ldB 4) ∧
  decodeWord 0xF265 = .instr (.loadRegs 2) ∧ decodeWord 0x5121 = .unrecognized 0x5121

/-! Memory and fetch -/

/-- R53, R54: the fetched word is the byte at the lower address times 256 plus the byte at the higher one, both addresses
modulo 4096. -/
def Obligations.FetchIsBigEndian : Prop :=
  ∀ (m : Memory) (a : Nat), (fetch16 m a).toNat = (m.read (a % 4096)).toNat * 256 + (m.read ((a + 1) % 4096)).toNat

/-- R66: a store is seen by the next fetch, with no buffer between: the two bytes Fx55 stored at `(I + k)` and
`(I + k + 1)` are the word a fetch at `(I + k) mod 4096` reads. -/
def Obligations.StoreSeenByNextFetch : Prop :=
  ∀ (s : State) (x : Reg) (k : Nat) (h : k < x.val), s.mem.wf →
    ∃ t, exec (.storeRegs x) s = .next t ∧
      fetch16 t.mem (dataAddr s.i k) = s.getV ⟨k, by omega⟩ ++ s.getV ⟨k + 1, by omega⟩

/-- Two memories in canonical form that read the same at all 4096 addresses are the same data. -/
def Obligations.CanonicalMemoryIsUnique : Prop :=
  ∀ m m' : Memory, m.wf → m'.wf → (∀ a, a < 4096 → m.read a = m'.read a) → m = m'

/-! Control flow -/

/-- R101: RET pops the last pushed address into `PC`; on an empty stack it raises StackUnderflow, pops nothing and leaves
`PC`. -/
def Obligations.RetPopsIntoPc : Prop :=
  (∀ (s : State) (stk : List Addr) (a : Addr), s.stack = stk ++ [a] →
    ∃ t, exec .ret s = .next t ∧ t.pc = a ∧ t.stack = stk ∧ SameExcept (fun p => p = .pc ∨ p = .stack) s t) ∧
  (∀ s : State, s.stack = [] →
    ∃ t, exec .ret s = .next t ∧ t.fatal = 1 ∧ t.phase = .halted ∧ SameExcept FatalPart s t)

/-- R102 and R108: JP takes any 12-bit target, JP V0 the sum of `nnn` and `V[0]` modulo 4096. -/
def Obligations.JumpsSetPc : Prop :=
  (∀ (nnn : Addr) (s : State), ∃ t, exec (.jp nnn) s = .next t ∧ t.pc = nnn ∧ SameExcept (· = .pc) s t) ∧
  (∀ (nnn : Addr) (s : State), ∃ t, exec (.jpV0 nnn) s = .next t ∧
    t.pc.toNat = (nnn.toNat + (s.getV 0).toNat) % 4096 ∧ SameExcept (· = .pc) s t)

/-- R103: CALL pushes the advanced `PC` and jumps; on a full stack it raises StackOverflow(nnn), pushes nothing and
leaves `PC`; and the same for every value of the parameter `STACK_DEPTH` (R8). -/
def Obligations.CallPushesPc : Prop :=
  (∀ (nnn : Addr) (s : State), s.stack.length ≠ Config.hw.stackDepth →
    ∃ t, exec (.call nnn) s = .next t ∧ t.stack = s.stack ++ [s.pc] ∧ t.pc = nnn ∧
      SameExcept (fun p => p = .pc ∨ p = .stack) s t) ∧
  (∀ (nnn : Addr) (s : State), s.stack.length = Config.hw.stackDepth →
    ∃ t, exec (.call nnn) s = .next t ∧ t.fatal = 2 ∧ t.fatalInfo = nnn ∧ t.phase = .halted ∧ SameExcept FatalPart s t) ∧
  (∀ (c : Params) (nnn : Addr) (s : State),
    (s.stack.length ≠ c.stackDepth → ∃ t, execIn c (.call nnn) s = .next t ∧ t.stack = s.stack ++ [s.pc] ∧ t.pc = nnn ∧
      SameExcept (fun p => p = .pc ∨ p = .stack) s t) ∧
    (s.stack.length = c.stackDepth → ∃ t, execIn c (.call nnn) s = .next t ∧ t.fatal = 2 ∧ t.fatalInfo = nnn ∧
      t.phase = .halted ∧ SameExcept FatalPart s t))

/-- R101 and R103 together: a call and then a return restore `PC` to the instruction after the call, and the stack. -/
def Obligations.CallThenReturn : Prop :=
  ∀ (s : State) (nnn : Addr), Executing s → nextWord s = encode (.call nnn) →
    s.stack.length ≠ Config.hw.stackDepth →
    ∃ t, step s = .next t ∧ t.pc = nnn ∧
      (Executing t → nextWord t = 0x00EE → ∃ u, step t = .next u ∧ u.pc = s.pc + 2 ∧ u.stack = s.stack)

/-- R104 and R105: SE skips when the register equals `kk`, SNE when it does not; nothing but `PC` is written. -/
def Obligations.SkipOnImmediate : Prop :=
  (∀ (x : Reg) (kk : Byte) (s : State), ∃ t, exec (.seImm x kk) s = .next t ∧
    t.pc.toNat = (if (s.getV x).toNat = kk.toNat then (s.pc.toNat + 2) % 4096 else s.pc.toNat) ∧
    SameExcept (· = .pc) s t) ∧
  (∀ (x : Reg) (kk : Byte) (s : State), ∃ t, exec (.sneImm x kk) s = .next t ∧
    t.pc.toNat = (if (s.getV x).toNat = kk.toNat then s.pc.toNat else (s.pc.toNat + 2) % 4096) ∧
    SameExcept (· = .pc) s t)

/-- R106 and R107: SE skips when the two registers are equal, SNE when they are not; with `x = y` the one always skips
and the other never. -/
def Obligations.SkipOnRegisters : Prop :=
  (∀ (x y : Reg) (s : State), ∃ t, exec (.seReg x y) s = .next t ∧
    t.pc.toNat = (if (s.getV x).toNat = (s.getV y).toNat then (s.pc.toNat + 2) % 4096 else s.pc.toNat) ∧
    SameExcept (· = .pc) s t) ∧
  (∀ (x y : Reg) (s : State), ∃ t, exec (.sneReg x y) s = .next t ∧
    t.pc.toNat = (if (s.getV x).toNat = (s.getV y).toNat then s.pc.toNat else (s.pc.toNat + 2) % 4096) ∧
    SameExcept (· = .pc) s t)

/-! Arithmetic, logic, shift and random -/

/-- R120 and R123: the register receives `kk`, or a copy of `V[y]`; no flag. -/
def Obligations.RegisterLoads : Prop :=
  (∀ (x : Reg) (kk : Byte) (s : State), ∃ t, exec (.ldImm x kk) s = .next t ∧ t.getV x = kk ∧
    SameExcept (· = .reg x) s t) ∧
  (∀ (x y : Reg) (s : State), ∃ t, exec (.ldReg x y) s = .next t ∧ t.getV x = s.getV y ∧ SameExcept (· = .reg x) s t)

/-- R121: the sum modulo 256, with no flag. -/
def Obligations.AddImmediateWraps : Prop :=
  ∀ (x : Reg) (kk : Byte) (s : State), ∃ t, exec (.addImm x kk) s = .next t ∧
    (t.getV x).toNat = ((s.getV x).toNat + kk.toNat) % 256 ∧ SameExcept (· = .reg x) s t

/-- R124, R125, R126: OR, AND and XOR bit by bit, with no flag. -/
def Obligations.BitwiseOperations : Prop :=
  (∀ (x y : Reg) (s : State), ∃ t, exec (.orReg x y) s = .next t ∧
    (∀ j, (t.getV x).getLsbD j = ((s.getV x).getLsbD j || (s.getV y).getLsbD j)) ∧ SameExcept (· = .reg x) s t) ∧
  (∀ (x y : Reg) (s : State), ∃ t, exec (.andReg x y) s = .next t ∧
    (∀ j, (t.getV x).getLsbD j = ((s.getV x).getLsbD j && (s.getV y).getLsbD j)) ∧ SameExcept (· = .reg x) s t) ∧
  (∀ (x y : Reg) (s : State), ∃ t, exec (.xorReg x y) s = .next t ∧
    (∀ j, (t.getV x).getLsbD j = ((s.getV x).getLsbD j ^^ (s.getV y).getLsbD j)) ∧ SameExcept (· = .reg x) s t)

/-- R127: the sum modulo 256, and `VF` is 1 exactly when the sum exceeds 255; with `x = 0xF` the flag wins. -/
def Obligations.AddRegisterCarry : Prop :=
  ∀ (x y : Reg) (s : State), ∃ t, exec (.addReg x y) s = .next t ∧
    (t.getV regF).toNat = (if (s.getV x).toNat + (s.getV y).toNat > 255 then 1 else 0) ∧
    (x ≠ regF → (t.getV x).toNat = ((s.getV x).toNat + (s.getV y).toNat) % 256) ∧
    SameExcept (ResultOrFlag x) s t

/-- R128 and R130: the difference modulo 256, and `VF` is 1 exactly when the minuend is strictly greater. -/
def Obligations.SubtractsAndFlags : Prop :=
  (∀ (x y : Reg) (s : State), ∃ t, exec (.subReg x y) s = .next t ∧
    (t.getV regF).toNat = (if (s.getV x).toNat > (s.getV y).toNat then 1 else 0) ∧
    (x ≠ regF → (t.getV x).toNat = ((s.getV x).toNat + 256 - (s.getV y).toNat) % 256) ∧
    SameExcept (ResultOrFlag x) s t) ∧
  (∀ (x y : Reg) (s : State), ∃ t, exec (.subnReg x y) s = .next t ∧
    (t.getV regF).toNat = (if (s.getV y).toNat > (s.getV x).toNat then 1 else 0) ∧
    (x ≠ regF → (t.getV x).toNat = ((s.getV y).toNat + 256 - (s.getV x).toNat) % 256) ∧
    SameExcept (ResultOrFlag x) s t)

/-- R129 and R131: a logical shift of `V[x]` by one whatever `y` is, and `VF` is the bit shifted out. -/
def Obligations.ShiftsIgnoreVy : Prop :=
  (∀ (x y : Reg) (s : State), ∃ t, exec (.shr x y) s = .next t ∧
    (t.getV regF).toNat = (s.getV x).toNat % 2 ∧ (x ≠ regF → (t.getV x).toNat = (s.getV x).toNat / 2) ∧
    SameExcept (ResultOrFlag x) s t) ∧
  (∀ (x y : Reg) (s : State), ∃ t, exec (.shl x y) s = .next t ∧
    (t.getV regF).toNat = (s.getV x).toNat / 128 ∧
    (x ≠ regF → (t.getV x).toNat = (s.getV x).toNat * 2 % 256) ∧ SameExcept (ResultOrFlag x) s t)

/-- R132: the byte the environment presents in this step, whatever it is, masked with `kk`; no flag. -/
def Obligations.RandomIsMasked : Prop :=
  ∀ (x : Reg) (kk : Byte) (s : State), ∃ t, exec (.rnd x kk) s = .next t ∧
    (∀ j, (t.getV x).getLsbD j = (s.inputs.rand.getLsbD j && kk.getLsbD j)) ∧ SameExcept (· = .reg x) s t

/-! Index register and memory -/

/-- R150, R151, R152: `I` receives `nnn`, or `(I + V[x]) mod 4096`, or `V[x] * 5`; no flag. -/
def Obligations.IndexWrites : Prop :=
  (∀ (nnn : Addr) (s : State), ∃ t, exec (.ldI nnn) s = .next t ∧ t.i = nnn ∧ SameExcept (· = .index) s t) ∧
  (∀ (x : Reg) (s : State), ∃ t, exec (.addI x) s = .next t ∧
    t.i.toNat = (s.i.toNat + (s.getV x).toNat) % 4096 ∧ SameExcept (· = .index) s t) ∧
  (∀ (x : Reg) (s : State), ∃ t, exec (.ldF x) s = .next t ∧ t.i.toNat = (s.getV x).toNat * 5 ∧
    SameExcept (· = .index) s t)

/-- R153: hundreds, tens and ones of `V[x]` at `I`, `I + 1`, `I + 2` modulo 4096, and no other byte changes. -/
def Obligations.BcdStoresDigits : Prop :=
  ∀ (x : Reg) (s : State), s.mem.wf → ∃ t, exec (.ldB x) s = .next t ∧
    (t.memRead (dataAddr s.i 0)).toNat = (s.getV x).toNat / 100 ∧
    (t.memRead (dataAddr s.i 1)).toNat = (s.getV x).toNat / 10 % 10 ∧
    (t.memRead (dataAddr s.i 2)).toNat = (s.getV x).toNat % 10 ∧
    SameExcept (StoredByte (dataAddr s.i) 3) s t

/-- R154: `V[r]` at `(I + r) mod 4096` for every `r` up to and including `x`, and no other byte changes; `I` stays. -/
def Obligations.StoreRegistersRange : Prop :=
  ∀ (x : Reg) (s : State), s.mem.wf → ∃ t, exec (.storeRegs x) s = .next t ∧
    (∀ r : Reg, r ≤ x → t.memRead (dataAddr s.i r.val) = s.getV r) ∧
    SameExcept (StoredByte (dataAddr s.i) (x.val + 1)) s t

/-- R155: every `V[r]` up to and including `V[x]` from `(I + r) mod 4096`, the registers above unchanged; `I` stays. -/
def Obligations.LoadRegistersRange : Prop :=
  ∀ (x : Reg) (s : State), ∃ t, exec (.loadRegs x) s = .next t ∧
    (∀ r : Reg, r ≤ x → t.getV r = s.memRead (dataAddr s.i r.val)) ∧
    SameExcept (fun p => ∃ r, r ≤ x ∧ p = .reg r) s t

/-- R154 and R155 together: what Fx55 saved, Fx65 with the same `x` and `I` restores, whatever became of the registers in
between. -/
def Obligations.StoreThenLoadRestores : Prop :=
  ∀ (x : Reg) (s : State), s.mem.wf → ∃ t, exec (.storeRegs x) s = .next t ∧
    ∀ s' : State, s'.mem = t.mem → s'.i = s.i →
      ∃ u, exec (.loadRegs x) s' = .next u ∧ ∀ r : Reg, r ≤ x → u.getV r = s.getV r

/-! Display -/

/-- R171 and R173: every cell is 0, and nothing else changes. -/
def Obligations.ClearDisplay : Prop :=
  ∀ s : State, ∃ t, exec .cls s = .next t ∧ (∀ k, k < 2048 → t.fb.getLsbD k = false) ∧ SameExcept AnyCell s t

/-- R172: `togglePixel` flips exactly the cell of the wrapped coordinates, negative ones too, and returns what it held;
done twice it restores the framebuffer and returns the value the first call set. -/
def Obligations.TogglePixelFlipsOneCell : Prop :=
  ∀ (px py : Int) (fb : FrameBuf),
    let k := (py % 32).toNat * 64 + (px % 64).toNat
    k < 2048 ∧ (togglePixel px py fb).2 = fb.getLsbD k ∧
    (∀ j, j < 2048 → (togglePixel px py fb).1.getLsbD j = (if j = k then !fb.getLsbD j else fb.getLsbD j)) ∧
    togglePixel px py (togglePixel px py fb).1 = (fb, !fb.getLsbD k)

/-- R174, R175, R176, R177: each covered cell flips, no other does; `VF` is 1 exactly when a covered cell was set; the
coordinates are the registers' values before the instruction (R178). -/
def Obligations.DrawFlipsCoveredCells : Prop :=
  ∀ (x y : Reg) (n : BitVec 4) (s : State), ∃ t, exec (.drw x y n) s = .next t ∧
    (∀ k, k < 2048 → Covers s x y n k → t.fb.getLsbD k = !s.fb.getLsbD k) ∧
    (∀ k, k < 2048 → ¬ Covers s x y n k → t.fb.getLsbD k = s.fb.getLsbD k) ∧
    ((∃ k, Covers s x y n k ∧ s.fb.getLsbD k = true) → t.getV regF = 1) ∧
    ((∀ k, Covers s x y n k → s.fb.getLsbD k = false) → t.getV regF = 0) ∧
    SameExcept (fun p => AnyCell p ∨ p = .reg regF) s t

/-- R177: the same sprite drawn twice at the same place restores the framebuffer, and the second draw collides exactly
when some covered cell is set when it starts. -/
def Obligations.DrawTwiceRestores : Prop :=
  ∀ (x y : Reg) (n : BitVec 4) (s : State), x ≠ regF → y ≠ regF →
    ∃ t u, exec (.drw x y n) s = .next t ∧ exec (.drw x y n) t = .next u ∧ u.fb = s.fb ∧
      (u.getV regF = 1 ↔ ∃ k, Covers s x y n k ∧ t.fb.getLsbD k = true)

/-! Keypad and timers -/

/-- R190 and R191: SKP skips when `V[x]` is at most 15 and that key is held in this step's sample, SKNP when not. -/
def Obligations.SkipOnKey : Prop :=
  (∀ (x : Reg) (s : State), ∃ t, exec (.skp x) s = .next t ∧
    t.pc.toNat = (if (s.getV x).toNat ≤ 15 ∧ s.inputs.keyHeld.getLsbD (s.getV x).toNat = true
      then (s.pc.toNat + 2) % 4096 else s.pc.toNat) ∧ SameExcept (· = .pc) s t) ∧
  (∀ (x : Reg) (s : State), ∃ t, exec (.sknp x) s = .next t ∧
    t.pc.toNat = (if (s.getV x).toNat ≤ 15 ∧ s.inputs.keyHeld.getLsbD (s.getV x).toNat = true
      then s.pc.toNat else (s.pc.toNat + 2) % 4096) ∧ SameExcept (· = .pc) s t)

/-- R192: with a key available Fx0A captures its code at once, in 0..15; with none it changes only `MODE`, and the step
leaves `PC` at `(A + 2) mod 4096` and does not count it in `CYC`. -/
def Obligations.KeyCaptureOrWait : Prop :=
  (∀ (x : Reg) (s : State), s.inputs.keyLastValid = true → ∃ t, exec (.ldVxK x) s = .next t ∧
    (t.getV x).toNat = s.inputs.keyLast.toNat ∧ SameExcept (· = .reg x) s t) ∧
  (∀ (x : Reg) (s : State), s.inputs.keyLastValid = false → ∃ t, exec (.ldVxK x) s = .next t ∧
    t.mode = .waitKey x ∧ SameExcept (· = .mode) s t) ∧
  (∀ (x : Reg) (s : State), Executing s → nextWord s = encode (.ldVxK x) → s.inputs.keyLastValid = false →
    ∃ t, step s = .next t ∧ t.mode = .waitKey x ∧ t.pc = s.pc + 2 ∧
      SameExcept (fun p => p = .mode ∨ p = .pc ∨ EveryStep p) s t)

/-- R193: a poll captures the key, leaves the wait and counts the Fx0A; with no key nothing changes, and there is no
fetch. That the pulses fall is the model's reading (log 5). -/
def Obligations.KeyWaitPoll : Prop :=
  ∀ (s : State) (x : Reg), s.inputs.reset = false → s.phase = .burst → s.cyc < Config.hw.cpf → s.mode = .waitKey x →
    ∃ t, step s = .next t ∧ NoPulse t ∧
      (s.inputs.keyLastValid = true → (t.getV x).toNat = s.inputs.keyLast.toNat ∧ t.mode = .run ∧
        t.cyc = s.cyc + 1 ∧ SameExcept (fun p => p = .reg x ∨ p = .mode ∨ p = .cyc ∨ EveryStep p) s t) ∧
      (s.inputs.keyLastValid = false → SameExcept EveryStep s t)

/-- R194, R195, R196: the delay timer into a register, and a register into either timer. -/
def Obligations.TimerTransfers : Prop :=
  (∀ (x : Reg) (s : State), ∃ t, exec (.ldVxDt x) s = .next t ∧ t.getV x = s.dt ∧ SameExcept (· = .reg x) s t) ∧
  (∀ (x : Reg) (s : State), ∃ t, exec (.ldDtVx x) s = .next t ∧ t.dt = s.getV x ∧ SameExcept (· = .dt) s t) ∧
  (∀ (x : Reg) (s : State), ∃ t, exec (.ldStVx x) s = .next t ∧ t.st = s.getV x ∧ SameExcept (· = .st) s t)

/-- R228: while the key wait lasts, for any number of steps in which the environment presents no key, the burst is held:
`CYC`, both timers, `TONE`, the framebuffer and everything else stay as they are. That the pulses fall is the model's
reading (log 5), the taking of the samples log 1. -/
def Obligations.KeyWaitHoldsBurst : Prop :=
  ∀ (n : Nat) (s : State) (x : Reg), s.phase = .burst → s.cyc < Config.hw.cpf → s.mode = .waitKey x →
    n ≤ s.env.length → (∀ p ∈ s.env.take n, QuietSample p) →
    ∃ t, core.run n s = .next t ∧ SameExcept EveryStep s t ∧ t.env = s.env.drop n ∧ (n ≠ 0 → NoPulse t)

/-! Fatal conditions and the diagnostic -/

/-- R212: RET on an empty stack: `FATAL = 1`, `FATAL_PC = A`, `FATAL_INFO = 0`, `PHASE = HALTED`; `PC` keeps
`(A + 2) mod 4096`, `CYC` is not incremented, nothing else changes. -/
def Obligations.UnderflowHalts : Prop :=
  (∀ s : State, s.stack = [] → ∃ t, exec .ret s = .next t ∧ SameExcept FatalPart s t) ∧
  (∀ s : State, Executing s → nextWord s = 0x00EE → s.stack = [] →
    ∃ t, step s = .next t ∧ t.fatal = 1 ∧ t.fatalPc = s.pc ∧ t.fatalInfo = 0 ∧ t.phase = .halted ∧
      t.pc = s.pc + 2 ∧ t.cyc = s.cyc ∧
      SameExcept (fun p => FatalPart p ∨ p = .pc ∨ EveryStep p) s t)

/-- R213: CALL on a full stack: `FATAL = 2`, `FATAL_PC = A`, `FATAL_INFO = nnn`, `PHASE = HALTED`; `PC` keeps
`(A + 2) mod 4096`, `CYC` is not incremented, nothing else changes. -/
def Obligations.OverflowHalts : Prop :=
  (∀ (nnn : Addr) (s : State), s.stack.length = Config.hw.stackDepth →
    ∃ t, exec (.call nnn) s = .next t ∧ SameExcept FatalPart s t) ∧
  (∀ (nnn : Addr) (s : State), Executing s → nextWord s = encode (.call nnn) →
    s.stack.length = Config.hw.stackDepth →
    ∃ t, step s = .next t ∧ t.fatal = 2 ∧ t.fatalPc = s.pc ∧ t.fatalInfo = nnn ∧ t.phase = .halted ∧
      t.pc = s.pc + 2 ∧ t.cyc = s.cyc ∧
      SameExcept (fun p => FatalPart p ∨ p = .pc ∨ EveryStep p) s t)

/-- R214: an unrecognised word raises the diagnostic with its opcode and address, advances `PC`, counts as one completed
instruction, and changes nothing else. That `FRAME_DONE` falls is the model's reading (log 5). -/
def Obligations.UnrecognizedWordStep : Prop :=
  ∀ (s : State) (op : Word), Executing s → decodeWord (nextWord s) = .unrecognized op →
    ∃ t, step s = .next t ∧ t.diagValid = true ∧ t.diagOpcode = nextWord s ∧ t.diagPc = s.pc ∧ t.pc = s.pc + 2 ∧
      t.cyc = s.cyc + 1 ∧ t.frameDone = false ∧
      SameExcept (fun p => p = .diagOpcode ∨ p = .diagPc ∨ p = .pc ∨ p = .cyc ∨ EveryStep p) s t

/-- R217, R218, R219: in HALTED, without reset, no input has an effect, the core stays halted and nothing but the pulses
and the environment moves; with reset it takes the reset values. R222 (b) says that there is no step in HALTED: that the
model answers a next state there, so that reset can be taken later, is the model's choice (log 3), and that the pulses
fall in it is log 5. -/
def Obligations.OnlyResetLeavesHalted : Prop :=
  ∀ s : State, s.phase = .halted →
    (s.inputs.reset = false →
      ∃ t, step s = .next t ∧ t.phase = .halted ∧ NoPulse t ∧ SameExcept EveryStep s t) ∧
    (s.inputs.reset = true → s.inputs.loadEn = false → ∃ t, step s = .next t ∧ ResetValues Config.hw t)

/-! The step machine -/

/-- R221: when the word at `PC` decodes to `i`, the step is `exec` of `i` after the fetch, and then, unless a fatal
condition was raised or the engine waits for a key, one more completed instruction in `CYC`. The clearing of `FRAME_DONE`
is log 5, the passing of the input sample log 1. -/
def Obligations.StepRunsDecodedInstruction : Prop :=
  ∀ (s : State) (i : Instr), Executing s → decodeWord (nextWord s) = .instr i →
    ∃ t, exec i (afterFetch s) = .next t ∧
      step s = .next { t with
        cyc := if t.phase = .halted ∨ t.mode ≠ .run then t.cyc else t.cyc + 1
        env := t.env.tail
        clock := t.clock + 1 }

/-- R210: every instruction has a next state in every state ("total functions over their operand ranges"); none faults
and none is refused. -/
def Obligations.EveryInstructionHasNextState : Prop := ∀ (i : Instr) (s : State), ∃ t, exec i s = .next t

/-- R223: in IDLE an asserted tick starts a burst with `CYC = 0`; without one all state stays. The load port writes
nothing in this step: it is not asserted, or its window is closed. That the tick closes the window is log 9, that the
pulses fall log 5. -/
def Obligations.TickStartsBurst : Prop :=
  ∀ s : State, s.inputs.reset = false → (s.inputs.loadEn = true → s.loadOpen = false) → s.phase = .idle →
    ∃ t, step s = .next t ∧ NoPulse t ∧
      (s.inputs.tick = true → t.phase = .burst ∧ t.cyc = 0 ∧ t.loadOpen = false ∧
        SameExcept (fun p => p = .phase ∨ p = .cyc ∨ p = .loadOpen ∨ EveryStep p) s t) ∧
      (s.inputs.tick = false → SameExcept EveryStep s t)

/-- R224, R226, R227: the frame-end step counts both timers down to a floor of 0, sets `TONE` from the decremented `ST`,
pulses `FRAME_DONE`, and goes to IDLE with `CYC = 0`. That `DIAG_VALID` falls is the model's reading (log 5). -/
def Obligations.FrameEndStep : Prop :=
  ∀ s : State, s.inputs.reset = false → s.phase = .burst → s.cyc = Config.hw.cpf →
    ∃ t, step s = .next t ∧ t.dt.toNat = s.dt.toNat - 1 ∧ t.st.toNat = s.st.toNat - 1 ∧
      (t.tone = true ↔ t.st.toNat > 0) ∧ t.frameDone = true ∧ t.phase = .idle ∧ t.cyc = 0 ∧ t.diagValid = false ∧
      SameExcept (fun p => p = .dt ∨ p = .st ∨ p = .tone ∨ p = .phase ∨ p = .cyc ∨ EveryStep p) s t

/-- R225, R226: without reset, a timer changes only by its own load instruction or, by exactly 1, in a frame-end step, and
`TONE` changes only in a frame-end step. -/
def Obligations.TimersChangeOnlySo : Prop :=
  ∀ s t : State, step s = .next t → s.inputs.reset = false →
    (t.dt ≠ s.dt →
      (s.phase = .burst ∧ s.cyc = Config.hw.cpf ∧ t.dt.toNat + 1 = s.dt.toNat) ∨
      (Executing s ∧ ∃ x, decodeWord (nextWord s) = .instr (.ldDtVx x) ∧ t.dt = s.getV x)) ∧
    (t.st ≠ s.st →
      (s.phase = .burst ∧ s.cyc = Config.hw.cpf ∧ t.st.toNat + 1 = s.st.toNat) ∨
      (Executing s ∧ ∃ x, decodeWord (nextWord s) = .instr (.ldStVx x) ∧ t.st = s.getV x)) ∧
    (t.tone ≠ s.tone → s.phase = .burst ∧ s.cyc = Config.hw.cpf)

/-- R229: between the acceptance of a tick and the frame-end step of its burst exactly CPF instructions complete,
however often Fx0A waits in between, for every value of the parameters (R8). `step` is `cycle Config.hw` by definition. -/
def Obligations.BurstCompletesCpf : Prop :=
  ∀ (c : Params) (s a b e : State) (n : Nat), s.phase = .idle → cycle c s = .next a → a.phase = .burst →
    BurstRun c a n b → b.inputs.reset = false → cycle c b = .next e → e.phase = .idle → n = c.cpf

/-- R250: while reset is asserted the step takes the values of R39, whatever the phase, for every configuration that R8
admits; this hardware's is one, and `step` is `cycle Config.hw` by definition. That the environment loses the sample of
this step and no more (R252) is the model's form of the inputs (log 1). -/
def Obligations.ResetStepTakesResetValues : Prop :=
  ∀ (c : Params) (s : State), c.wf = true → s.inputs.reset = true → s.inputs.loadEn = false →
    ∃ t, cycle c s = .next t ∧ ResetValues c t ∧ t.env = s.env.tail

/-- R39: the state after reset has the values the spec gives. -/
def Obligations.ResetStateValues : Prop := ResetValues Config.hw State.reset

/-- R27, R31, R32, R222, R236: the invariant is kept by every step, reset, load, poll, halt and frame end among them, on
this hardware and for every value of the parameters (R8). -/
def Obligations.StepKeepsInvariant : Prop :=
  (∀ s t : State, Inv s → step s = .next t → Inv t) ∧
  (∀ (c : Params) (s t : State), InvIn c s → cycle c s = .next t → InvIn c t)

/-- The invariant holds after reset (R39). -/
def Obligations.ResetMeetsInvariant : Prop := Inv State.reset

/-- R222: where the invariant holds, every state has a next step, whatever the inputs. In HALTED, where R222 (b) says
that there is no step, this is the model's choice (log 3), and so it is where the load port is used outside its window
(log 9). -/
def Obligations.StepNeverStuck : Prop := ∀ s : State, Inv s → ∃ t, step s = .next t

/-! The host's load port -/

/-- R236: in IDLE before the first tick, `load_en` writes the byte at `load_addr` and no other. That a tick asserted in the
same step is accepted as well, after the byte, is the model's choice (log 10). -/
def Obligations.LoadPortWritesByte : Prop :=
  ∀ s : State, s.mem.wf → s.inputs.reset = false → s.inputs.loadEn = true → s.phase = .idle → s.loadOpen = true →
    ∃ t, step s = .next t ∧ t.memRead s.inputs.loadAddr.toNat = s.inputs.loadData ∧
      (s.inputs.tick = true → t.phase = .burst ∧ t.cyc = 0) ∧
      SameExcept (fun p => p = .byte s.inputs.loadAddr.toNat ∨
        (s.inputs.tick = true ∧ (p = .phase ∨ p = .cyc ∨ p = .loadOpen)) ∨ EveryStep p) s t

/-- R236: while reset is asserted `load_en` writes the byte at `load_addr`. That the byte lies on top of the reset values,
which are taken in the same step, is the model's choice (log 8); so are the values of `DIAG_OPCODE` and `DIAG_PC` in them
(log 6). -/
def Obligations.LoadDuringReset : Prop :=
  ∀ s : State, s.inputs.reset = true → s.inputs.loadEn = true →
    ∃ t, step s = .next t ∧ t.memRead s.inputs.loadAddr.toNat = s.inputs.loadData ∧
      SameExcept (fun p => p = .byte s.inputs.loadAddr.toNat ∨ p = .env ∨ p = .clock) State.reset t

/-- R6, R217, R236: without reset and outside its window the load port has no effect: the step is the same whatever
stands at its three inputs. For a halted core that is R217's; for a burst, and for IDLE after the first tick, it is the
model's reading of R6, the environment "never writes core state except at reset and program load" (log 9). -/
def Obligations.LoadOutsideWindowIgnored : Prop :=
  ∀ (s : State) (p : Inputs) (rest : List Inputs) (b : Bool) (a : Addr) (d : Byte), s.env = p :: rest →
    p.reset = false → ¬ (s.phase = .idle ∧ s.loadOpen = true) →
    step { s with env := { p with loadEn := b, loadAddr := a, loadData := d } :: rest } = step s

/-- R255, R256: an image of at most 3584 bytes goes to 0x200 and up, byte by byte, and changes nothing else, whatever
state it is loaded into (log 20), the state after reset of any admitted configuration (R8) among them; a longer one is
given no meaning and refused (log 18), and so is a configuration that R8 excludes (log 14). -/
def Obligations.ProgramLoadContract : Prop :=
  (∀ (s : State) (image : List Byte), s.mem.wf → image.length ≤ 3584 →
    ∃ t, s.loadProgram image = some t ∧ (∀ j (h : j < image.length), t.memRead (0x200 + j) = image[j]) ∧
      SameExcept (StoredByte (0x200 + ·) image.length) s t) ∧
  (∀ (s : State) (image : List Byte), image.length > 3584 → s.loadProgram image = none) ∧
  (∀ (c : Params) (image : List Byte), c.wf = true → image.length ≤ 3584 →
    ∃ t, State.boot c image = some t ∧ MemoryBelowProgram c t ∧
      (∀ j (h : j < image.length), t.memRead (0x200 + j) = image[j]) ∧
      SameExcept (StoredByte (0x200 + ·) image.length) (State.resetIn c) t) ∧
  (∀ (c : Params) (image : List Byte), c.wf = false → State.boot c image = none)

/-! Whole-machine rules over all instructions -/

/-- R21, R22: a register no rule lists as written by an instruction keeps its value, and an instruction that writes `VF`
as a flag leaves it 0 or 1. -/
def Obligations.OnlyListedRegistersWritten : Prop :=
  ∀ (i : Instr) (s t : State), exec i s = .next t →
    (∀ r, ¬ WritesReg i r → t.getV r = s.getV r) ∧ (WritesFlag i → (t.getV regF).toNat ≤ 1)

/-- R24, R27, R33, R56: `I` changes only by Annn, Fx1E and Fx29, the framebuffer only by 00E0 and Dxyn, memory only by
Fx33 and Fx55, the stack only by 2nnn and 00EE, and the timers only by Fx15 and Fx18. -/
def Obligations.OnlyNamedInstructionsWrite : Prop :=
  ∀ (i : Instr) (s t : State), exec i s = .next t →
    (t.i ≠ s.i → (∃ nnn, i = .ldI nnn) ∨ (∃ x, i = .addI x) ∨ (∃ x, i = .ldF x)) ∧
    (t.fb ≠ s.fb → i = .cls ∨ ∃ x y n, i = .drw x y n) ∧
    (t.mem ≠ s.mem → (∃ x, i = .ldB x) ∨ (∃ x, i = .storeRegs x)) ∧
    (t.stack ≠ s.stack → i = .ret ∨ ∃ nnn, i = .call nnn) ∧
    (t.dt ≠ s.dt → ∃ x, i = .ldDtVx x) ∧ (t.st ≠ s.st → ∃ x, i = .ldStVx x)

/-- R61, R232, R233: an instruction that is not one of Cxkk, Ex9E, ExA1 and Fx0A does the same whatever the environment
presents. -/
def Obligations.OnlyNamedInstructionsReadInputs : Prop :=
  ∀ (i : Instr) (s : State) (e : List Inputs) (c : Nat), ¬ ReadsInput i →
    ∃ t, exec i s = .next t ∧ exec i { s with env := e, clock := c } = .next { t with env := e, clock := c }

/-- R217, R223: a tick asserted while `PHASE` is `BURST` or `HALTED` has no effect and is not remembered. -/
def Obligations.TickIgnoredOutsideIdle : Prop :=
  ∀ (s : State) (p : Inputs) (rest : List Inputs) (b : Bool), s.env = p :: rest → s.phase ≠ .idle →
    step { s with env := { p with tick := b } :: rest } = step s

/-- The host's way to run one word (log 15): the very next step of `s.withFetchWord 16 w` is an instruction step that
fetches the word `w`, and every byte but the two at `PC` is as in `s`. -/
def Obligations.FetchWordIsNext : Prop :=
  ∀ (s : State) (w : Nat), s.mem.wf → Executing (s.withFetchWord 16 w) ∧
    nextWord (s.withFetchWord 16 w) = BitVec.ofNat 16 w ∧
    SameExcept (fun p => StoredByte (dataAddr s.pc) 2 p ∨ p = .phase ∨ p = .mode ∨ p = .cyc ∨ p = .loadOpen ∨ p = .env)
      s (s.withFetchWord 16 w)

/-! The pulses -/

/-- R37, R214, R218, R227: after a step `FRAME_DONE` is 1 exactly when it was a frame-end step, and `DIAG_VALID` is 1
exactly when it ran an unrecognised word. That every other step lets them fall is the model's reading (log 5). -/
def Obligations.PulsesOnlyInTheirSteps : Prop :=
  ∀ s t : State, step s = .next t →
    (t.frameDone = true ↔ s.inputs.reset = false ∧ s.phase = .burst ∧ s.cyc = Config.hw.cpf) ∧
    (t.diagValid = true ↔ Executing s ∧ decodeWord (nextWord s) = .unrecognized (nextWord s))
end

