-- ==== Sys2Proof/Laws/Display.lean ====
section
/-! SUPPORT. The display surface: a sprite as the list of cells it flips, all different. -/

namespace Sys2Proof.Machine

/-- R172: a toggled pixel is one cell of the grid. -/
theorem cellIndex_lt (px py : Int) : cellIndex px py < 2048 := by
  unfold cellIndex; omega

/-- R172: exactly one cell flips. -/
theorem togglePixel_getLsbD (px py : Int) (fb : FrameBuf) (k : Nat) :
    (togglePixel px py fb).1.getLsbD k = (fb.getLsbD k ^^ decide (cellIndex px py = k)) := by
  have := cellIndex_lt px py
  by_cases h : cellIndex px py = k
  · subst h; simp [togglePixel, this]
  · simp [togglePixel, BitVec.getLsbD_twoPow, h]

/-- The cells a sprite's set bits cover, in the order they are drawn (R174, R175). -/
def spriteCells (ox oy n : Nat) (rowByte : Nat → Byte) : List Nat :=
  (List.range n).flatMap fun r =>
    ((List.range 8).filter fun c => (rowByte r).getLsbD (7 - c)).map fun c => cellIndex (ox + c : Nat) (oy + r : Nat)

/-- Flip a cell, adding its collision. -/
def flipCell (acc : FrameBuf × Bool) (k : Nat) : FrameBuf × Bool :=
  (acc.1 ^^^ BitVec.twoPow 2048 k, acc.2 || acc.1.getLsbD k)

theorem drawRow_eq (ox py : Nat) (b : Byte) (acc : FrameBuf × Bool) :
    drawRow ox py b acc =
      (((List.range 8).filter fun c => b.getLsbD (7 - c)).map fun c => cellIndex (ox + c : Nat) py).foldl flipCell acc := by
  rw [List.foldl_map, List.foldl_filter]
  rfl

/-- A sprite is drawn by flipping its cells one after another. -/
theorem drawSprite_eq (ox oy n : Nat) (rowByte : Nat → Byte) (fb : FrameBuf) :
    drawSprite ox oy n rowByte fb = (spriteCells ox oy n rowByte).foldl flipCell (fb, false) := by
  rw [spriteCells, List.foldl_flatMap]
  simp only [drawSprite, drawRow_eq]

/-- Flipping different cells: each is flipped once, and the collisions are those of the framebuffer before. -/
theorem foldl_flipCell (ks : List Nat) (hnd : ks.Nodup) (hlt : ∀ k ∈ ks, k < 2048) (acc : FrameBuf × Bool) :
    (∀ k, (ks.foldl flipCell acc).1.getLsbD k = (acc.1.getLsbD k ^^ decide (k ∈ ks))) ∧
      (ks.foldl flipCell acc).2 = (acc.2 || ks.any acc.1.getLsbD) := by
  induction ks generalizing acc with
  | nil => simp
  | cons c ks ih =>
    have ⟨hc, hks⟩ := List.nodup_cons.1 hnd
    have hc2048 := hlt c (by simp)
    have ⟨h1, h2⟩ := ih hks (fun k hk => hlt k (by simp [hk])) (flipCell acc c)
    have hbit : ∀ k, (flipCell acc c).1.getLsbD k = (acc.1.getLsbD k ^^ decide (k = c)) := by
      intro k
      by_cases h : k = c
      · subst h; simp [flipCell, hc2048]
      · simp [flipCell, BitVec.getLsbD_twoPow, h, Ne.symm h]
    refine ⟨fun k => ?_, ?_⟩
    · rw [List.foldl_cons, h1, hbit]
      by_cases h : k = c
      · subst h; simp [hc]
      · simp [h]
    · rw [List.foldl_cons, h2]
      have : ks.any (flipCell acc c).1.getLsbD = ks.any acc.1.getLsbD := by
        apply Bool.eq_iff_iff.2
        simp only [List.any_eq_true]
        refine exists_congr fun k => and_congr_right fun hk => ?_
        rw [hbit]
        have : k ≠ c := fun h => hc (h ▸ hk)
        simp [this]
      rw [this]
      simp [flipCell, Bool.or_assoc]

/-- R176: the cells of one sprite are all different. -/
theorem cellIndex_inj {ox oy r c r' c' : Nat} (hr : r < 16) (hc : c < 8) (hr' : r' < 16) (hc' : c' < 8)
    (h : cellIndex (ox + c : Nat) (oy + r : Nat) = cellIndex (ox + c' : Nat) (oy + r' : Nat)) : r = r' ∧ c = c' := by
  unfold cellIndex at h
  omega

theorem spriteCells_nodup (ox oy n : Nat) (hn : n ≤ 16) (rowByte : Nat → Byte) :
    (spriteCells ox oy n rowByte).Nodup := by
  unfold spriteCells
  rw [List.nodup_flatMap]
  refine ⟨fun r hr => ?_, ?_⟩
  · refine List.Nodup.map_on (fun c hc c' hc' h => ?_) (List.nodup_range.filter _)
    simp only [List.mem_filter, List.mem_range] at hc hc' hr
    exact (cellIndex_inj (by omega) hc.1 (by omega) hc'.1 h).2
  · refine List.Nodup.pairwise_of_forall_ne List.nodup_range fun r hr r' hr' hne k hk hk' => ?_
    simp only [List.mem_map, List.mem_filter, List.mem_range] at hk hk' hr hr'
    obtain ⟨c, ⟨hc, -⟩, rfl⟩ := hk
    obtain ⟨c', ⟨hc', -⟩, h⟩ := hk'
    exact hne (cellIndex_inj (by omega) hc (by omega) hc' h.symm).1

theorem mem_spriteCells (ox oy n : Nat) (rowByte : Nat → Byte) (k : Nat) :
    k ∈ spriteCells ox oy n rowByte ↔
      ∃ r, r < n ∧ ∃ c, c < 8 ∧ (rowByte r).getLsbD (7 - c) = true ∧ cellIndex (ox + c : Nat) (oy + r : Nat) = k := by
  simp [spriteCells, and_assoc]

/-- What drawing does: the covered cells flip (R174 to R176), and there is a collision when one of them was set (R177). -/
theorem drawSprite_spec (ox oy n : Nat) (hn : n ≤ 16) (rowByte : Nat → Byte) (fb : FrameBuf) :
    (∀ k, (drawSprite ox oy n rowByte fb).1.getLsbD k =
      (fb.getLsbD k ^^ decide (k ∈ spriteCells ox oy n rowByte))) ∧
    (drawSprite ox oy n rowByte fb).2 = (spriteCells ox oy n rowByte).any fb.getLsbD := by
  have h := foldl_flipCell (spriteCells ox oy n rowByte) (spriteCells_nodup ox oy n hn rowByte)
    (fun k hk => by
      obtain ⟨r, -, c, -, -, rfl⟩ := (mem_spriteCells ..).1 hk
      exact cellIndex_lt _ _) (fb, false)
  rw [drawSprite_eq]
  simpa using h

end Sys2Proof.Machine
end

