-- ==== Sys2Proof/Laws/Encoding.lean ====
section
/-! SUPPORT. The opcode map: no word matches two rows, and what the fields of each format are. -/

namespace Sys2Proof

/-- Two rows differ on a bit both fix, so no word matches both (R79). -/
theorem rows_exclusive : rows.Pairwise (fun a b => a.mask &&& b.mask &&& (a.bits ^^^ b.bits) ≠ 0) := by decide

/-- R79: a word that matches one of two rows that differ on a common fixed bit does not match the other. -/
theorem Row.not_matches_of_differ {a b : Row} {op : Word}
    (h : a.mask &&& b.mask &&& (a.bits ^^^ b.bits) ≠ 0) (ha : a.matches op = true) : b.matches op = false := by
  by_contra hb
  simp only [Row.matches, beq_iff_eq, Bool.not_eq_false] at ha hb
  apply h
  rw [← ha, ← hb]
  ext j hj
  simp
  intro h1 h2
  simp [h1, h2]

theorem find_of_pairwise {l : List Row} (hp : l.Pairwise (fun a b => a.mask &&& b.mask &&& (a.bits ^^^ b.bits) ≠ 0))
    {r : Row} (hr : r ∈ l) {op : Word} (hm : r.matches op = true) : l.find? (·.matches op) = some r := by
  induction l with
  | nil => simp at hr
  | cons a l ih =>
    have ⟨ha, hl⟩ := List.pairwise_cons.1 hp
    rcases List.mem_cons.1 hr with rfl | hr
    · simp [hm]
    · have hd := ha r hr
      have : a.matches op = false :=
        Row.not_matches_of_differ (by rw [BitVec.and_comm r.mask, BitVec.xor_comm]; exact hd) hm
      simp only [List.find?_cons, this]
      exact ih hl hr

/-- R79: the order of the rows does not matter; a word that matches a row decodes by it. -/
theorem decodeWord_of_matches {r : Row} (hr : r ∈ rows) {op : Word} (hm : r.matches op = true) :
    decodeWord op = .instr (r.build (fieldsOf op)) := by
  simp only [decodeWord, find_of_pairwise rows_exclusive hr hm]

/-- R81: a word that matches no row is unrecognised. -/
theorem decodeWord_of_no_match {op : Word} (h : ∀ r ∈ rows, r.matches op = false) :
    decodeWord op = .unrecognized op := by
  have : rows.find? (·.matches op) = none := List.find?_eq_none.2 fun r hr => by simp [h r hr]
  simp only [decodeWord, this]

theorem regBits_toFin (x : Reg) : (regBits x).toFin = x := rfl

theorem regBits_of_toFin (b : BitVec 4) : regBits b.toFin = b := rfl

/-- R76: the address field of format A. -/
theorem formatA_nnn (t : BitVec 4) (nnn : Addr) : (fieldsOf (formatA t nnn)).nnn = nnn := by
  simp only [fieldsOf, formatA]
  ext j hj
  rw [BitVec.getElem_extractLsb', BitVec.getLsbD_append, if_pos (by omega), Nat.zero_add,
    BitVec.getLsbD_eq_getElem hj]

/-- R76: the fields of format I. -/
theorem formatI_fields (t : BitVec 4) (x : Reg) (kk : Byte) :
    (fieldsOf (formatI t x kk)).x = x ∧ (fieldsOf (formatI t x kk)).kk = kk := by
  constructor
  · have : (t ++ (regBits x ++ kk) : BitVec 16).extractLsb' 8 4 = regBits x := by
      ext j hj
      rw [BitVec.getElem_extractLsb', BitVec.getLsbD_append, BitVec.getLsbD_append, if_pos (by omega),
        if_neg (by omega), Nat.add_sub_cancel_left, BitVec.getLsbD_eq_getElem hj]
    exact congrArg BitVec.toFin this
  · simp only [fieldsOf, formatI]
    ext j hj
    rw [BitVec.getElem_extractLsb', BitVec.getLsbD_append, BitVec.getLsbD_append, if_pos (by omega),
      if_pos (by omega), Nat.zero_add, BitVec.getLsbD_eq_getElem hj]

/-- R76: the fields of formats R and D. -/
theorem formatR_fields (t : BitVec 4) (x y : Reg) (n : BitVec 4) :
    (fieldsOf (formatR t x y n)).x = x ∧ (fieldsOf (formatR t x y n)).y = y ∧ (fieldsOf (formatR t x y n)).n = n := by
  refine ⟨?_, ?_, ?_⟩
  · have : (t ++ (regBits x ++ (regBits y ++ n)) : BitVec 16).extractLsb' 8 4 = regBits x := by
      ext j hj
      rw [BitVec.getElem_extractLsb', BitVec.getLsbD_append, BitVec.getLsbD_append, if_pos (by omega),
        if_neg (by omega), Nat.add_sub_cancel_left, BitVec.getLsbD_eq_getElem hj]
    exact congrArg BitVec.toFin this
  · have : (t ++ (regBits x ++ (regBits y ++ n)) : BitVec 16).extractLsb' 4 4 = regBits y := by
      ext j hj
      rw [BitVec.getElem_extractLsb', BitVec.getLsbD_append, BitVec.getLsbD_append, BitVec.getLsbD_append,
        if_pos (by omega), if_pos (by omega), if_neg (by omega), Nat.add_sub_cancel_left, BitVec.getLsbD_eq_getElem hj]
    exact congrArg BitVec.toFin this
  · simp only [fieldsOf, formatR]
    ext j hj
    rw [BitVec.getElem_extractLsb', BitVec.getLsbD_append, BitVec.getLsbD_append, BitVec.getLsbD_append,
      if_pos (by omega), if_pos (by omega), if_pos (by omega), Nat.zero_add, BitVec.getLsbD_eq_getElem hj]

/-- R76: the register field of format X. -/
theorem formatX_x (t : BitVec 4) (x : Reg) (fn : Byte) : (fieldsOf (formatX t x fn)).x = x :=
  (formatI_fields t x fn).1

end Sys2Proof
end

