-- ==== Sys2Proof/Laws/Memory.lean ====
section
/-! SUPPORT. Main memory: a read after a write, and the canonical form. -/

namespace Sys2Proof.Machine.Memory

theorem lookup_of_lt (a : Nat) (m : Memory) (h : ∀ c ∈ m, a < c.1) : lookup a m = default a := by
  induction m with
  | nil => rfl
  | cons c rest ih =>
    obtain ⟨b, w⟩ := c
    have hb : a < b := h (b, w) (by simp)
    simp only [lookup, if_neg (Nat.ne_of_lt hb)]
    exact ih fun c hc => h c (by simp [hc])

/-- The listed byte after a write, in a memory whose addresses rise. -/
theorem lookup_insert (a b : Nat) (v : Byte) (m : Memory) (h : m.Pairwise (fun c d => c.1 < d.1)) :
    lookup b (insert a v m) = if b = a then v else lookup b m := by
  induction m with
  | nil =>
    simp only [insert]
    split <;> rename_i hv <;> by_cases hb : b = a <;> simp [lookup, hb, hv]
  | cons c rest ih =>
    obtain ⟨k, w⟩ := c
    have hrest := (List.pairwise_cons.1 h).1
    simp only [insert]
    by_cases hk : a < k
    · simp only [hk, if_true]
      have hnone : lookup a ((k, w) :: rest) = default a := by
        apply lookup_of_lt
        intro c hc
        rcases List.mem_cons.1 hc with rfl | hc
        · exact hk
        · exact Nat.lt_trans hk (hrest c hc)
      split <;> rename_i hv
      · by_cases hb : b = a
        · subst hb; rw [hnone]; simp [hv]
        · simp [hb]
      · simp only [lookup]
    · simp only [hk, if_false]
      by_cases he : a = k
      · subst he
        simp only [if_true]
        split <;> rename_i hv
        · by_cases hb : b = a
          · subst hb
            rw [if_pos rfl, lookup_of_lt b rest hrest, hv]
          · simp [lookup, hb]
        · by_cases hb : b = a <;> simp [lookup, hb]
      · simp only [if_neg he, lookup]
        rw [ih (List.pairwise_cons.1 h).2]
        by_cases hb : b = k
        · subst hb; simp [Ne.symm he]
        · simp [hb]

theorem mem_insert (a : Nat) (v : Byte) (m : Memory) (c : Host.Cell) (h : c ∈ insert a v m) :
    (c = (a, v) ∧ v ≠ default a) ∨ c ∈ m := by
  induction m with
  | nil => simp only [insert] at h; split at h <;> simp_all
  | cons d rest ih =>
    obtain ⟨k, w⟩ := d
    simp only [insert] at h
    split at h
    · split at h
      · exact .inr h
      · rcases List.mem_cons.1 h with rfl | h
        · exact .inl ⟨rfl, ‹_›⟩
        · exact .inr h
    · split at h
      · split at h
        · exact .inr (List.mem_cons_of_mem _ h)
        · rcases List.mem_cons.1 h with rfl | h
          · exact .inl ⟨rfl, ‹_›⟩
          · exact .inr (List.mem_cons_of_mem _ h)
      · rcases List.mem_cons.1 h with rfl | h
        · exact .inr (by simp)
        · rcases ih h with h | h
          · exact .inl h
          · exact .inr (List.mem_cons_of_mem _ h)

theorem insert_pairwise (a : Nat) (v : Byte) (m : Memory) (h : m.Pairwise (fun c d => c.1 < d.1)) :
    (insert a v m).Pairwise (fun c d => c.1 < d.1) := by
  induction m with
  | nil => simp only [insert]; split <;> simp
  | cons d rest ih =>
    obtain ⟨k, w⟩ := d
    have ⟨hk, hr⟩ := List.pairwise_cons.1 h
    simp only [insert]
    split
    · rename_i hlt
      split
      · exact h
      · refine List.pairwise_cons.2 ⟨fun c hc => ?_, h⟩
        rcases List.mem_cons.1 hc with rfl | hc
        · exact hlt
        · exact Nat.lt_trans hlt (hk c hc)
    · rename_i hge
      split
      · rename_i he
        subst he
        split
        · exact hr
        · exact List.pairwise_cons.2 ⟨hk, hr⟩
      · rename_i hne
        refine List.pairwise_cons.2 ⟨fun c hc => ?_, ih hr⟩
        rcases mem_insert a v rest c hc with ⟨rfl, -⟩ | hc
        · show k < a
          omega
        · exact hk c hc

theorem wrapAddr_lt (a : Nat) : wrapAddr a < 4096 := Nat.mod_lt _ (by decide)

@[simp] theorem wrapAddr_of_lt {a : Nat} (h : a < 4096) : wrapAddr a = a := Nat.mod_eq_of_lt h

/-- A write keeps the canonical form. -/
theorem write_wf (m : Memory) (a : Nat) (v : Byte) (h : m.wf) : (m.write a v).wf := by
  refine ⟨insert_pairwise _ v m h.1, fun c hc => ?_⟩
  rcases mem_insert _ v m c hc with ⟨rfl, hv⟩ | hc
  · exact ⟨wrapAddr_lt a, hv⟩
  · exact h.2 c hc

/-- A run of writes keeps the canonical form. -/
theorem writeBytes_wf (bs : List Byte) (m : Memory) (a : Nat) (h : m.wf) : (m.writeBytes a bs).wf := by
  induction bs generalizing m a with
  | nil => exact h
  | cons b bs ih => exact ih _ _ (write_wf m a b h)

/-- A read after a write: the same cell gives the byte written, every other cell is as before (R51). -/
theorem read_write (m : Memory) (a b : Nat) (v : Byte) (h : m.wf) :
    (m.write a v).read b = if wrapAddr b = wrapAddr a then v else m.read b :=
  lookup_insert _ _ v m h.1

/-- A read depends on the wrapped address alone (R52). -/
@[simp] theorem read_wrapAddr (m : Memory) (a : Nat) : m.read (wrapAddr a) = m.read a := by
  simp [read, wrapAddr]

/-- A write depends on the wrapped address alone (R52). -/
@[simp] theorem write_wrapAddr (m : Memory) (a : Nat) (v : Byte) : m.write (wrapAddr a) v = m.write a v := by
  simp [write, wrapAddr]

/-- Everything a run of writes does, for a run that does not meet itself. -/
theorem read_writeBytes (bs : List Byte) (m : Memory) (a b : Nat) (h : m.wf) (hlen : bs.length ≤ 4096) :
    (m.writeBytes a bs).read b =
      if (wrapAddr (b + 4096 - wrapAddr a)) < bs.length then bs.getD (wrapAddr (b + 4096 - wrapAddr a)) 0
      else m.read b := by
  induction bs generalizing m a with
  | nil => simp [writeBytes]
  | cons v bs ih =>
    rw [writeBytes, ih _ _ (write_wf m a v h) (by simp at hlen; omega), read_write m a b v h]
    simp only [List.length_cons] at hlen ⊢
    have ha := wrapAddr_lt a
    by_cases hb : wrapAddr b = wrapAddr a
    · have h0 : wrapAddr (b + 4096 - wrapAddr a) = 0 := by simp only [wrapAddr] at *; omega
      have h1 : wrapAddr (b + 4096 - wrapAddr (a + 1)) = 4095 := by simp only [wrapAddr] at *; omega
      rw [h0, h1, if_pos hb, if_neg (by omega)]
      simp
    · have h0 : wrapAddr (b + 4096 - wrapAddr a) = wrapAddr (b + 4096 - wrapAddr (a + 1)) + 1 := by
        simp only [wrapAddr] at *; omega
      rw [h0, if_neg hb]
      simp

end Sys2Proof.Machine.Memory
end

