-- ==== Sys2Proof/Laws/State.lean ====
section
/-! SUPPORT. What each update of the state does to each field, one lemma a field, so that no proof unfolds an update. -/

namespace Sys2Proof.Machine

variable (s : State)

/-! `setV` -/

@[simp] theorem setV_v (r : Reg) (b : Byte) : (s.setV r b).v = s.v.set r.val b := rfl
@[simp] theorem setV_i (r : Reg) (b : Byte) : (s.setV r b).i = s.i := rfl
@[simp] theorem setV_pc (r : Reg) (b : Byte) : (s.setV r b).pc = s.pc := rfl
@[simp] theorem setV_stack (r : Reg) (b : Byte) : (s.setV r b).stack = s.stack := rfl
@[simp] theorem setV_dt (r : Reg) (b : Byte) : (s.setV r b).dt = s.dt := rfl
@[simp] theorem setV_st (r : Reg) (b : Byte) : (s.setV r b).st = s.st := rfl
@[simp] theorem setV_mode (r : Reg) (b : Byte) : (s.setV r b).mode = s.mode := rfl
@[simp] theorem setV_phase (r : Reg) (b : Byte) : (s.setV r b).phase = s.phase := rfl
@[simp] theorem setV_cyc (r : Reg) (b : Byte) : (s.setV r b).cyc = s.cyc := rfl
@[simp] theorem setV_fatal (r : Reg) (b : Byte) : (s.setV r b).fatal = s.fatal := rfl
@[simp] theorem setV_fatalPc (r : Reg) (b : Byte) : (s.setV r b).fatalPc = s.fatalPc := rfl
@[simp] theorem setV_fatalInfo (r : Reg) (b : Byte) : (s.setV r b).fatalInfo = s.fatalInfo := rfl
@[simp] theorem setV_tone (r : Reg) (b : Byte) : (s.setV r b).tone = s.tone := rfl
@[simp] theorem setV_diagValid (r : Reg) (b : Byte) : (s.setV r b).diagValid = s.diagValid := rfl
@[simp] theorem setV_diagOpcode (r : Reg) (b : Byte) : (s.setV r b).diagOpcode = s.diagOpcode := rfl
@[simp] theorem setV_diagPc (r : Reg) (b : Byte) : (s.setV r b).diagPc = s.diagPc := rfl
@[simp] theorem setV_frameDone (r : Reg) (b : Byte) : (s.setV r b).frameDone = s.frameDone := rfl
@[simp] theorem setV_mem (r : Reg) (b : Byte) : (s.setV r b).mem = s.mem := rfl
@[simp] theorem setV_fb (r : Reg) (b : Byte) : (s.setV r b).fb = s.fb := rfl
@[simp] theorem setV_loadOpen (r : Reg) (b : Byte) : (s.setV r b).loadOpen = s.loadOpen := rfl
@[simp] theorem setV_env (r : Reg) (b : Byte) : (s.setV r b).env = s.env := rfl
@[simp] theorem setV_clock (r : Reg) (b : Byte) : (s.setV r b).clock = s.clock := rfl
@[simp] theorem setV_memRead (r : Reg) (b : Byte) (k : Nat) : (s.setV r b).memRead k = s.memRead k := rfl
@[simp] theorem setV_inputs (r : Reg) (b : Byte) : (s.setV r b).inputs = s.inputs := rfl

/-! `setPc` -/

@[simp] theorem setPc_v (a : Addr) : (s.setPc a).v = s.v := rfl
@[simp] theorem setPc_i (a : Addr) : (s.setPc a).i = s.i := rfl
@[simp] theorem setPc_pc (a : Addr) : (s.setPc a).pc = a := rfl
@[simp] theorem setPc_stack (a : Addr) : (s.setPc a).stack = s.stack := rfl
@[simp] theorem setPc_dt (a : Addr) : (s.setPc a).dt = s.dt := rfl
@[simp] theorem setPc_st (a : Addr) : (s.setPc a).st = s.st := rfl
@[simp] theorem setPc_mode (a : Addr) : (s.setPc a).mode = s.mode := rfl
@[simp] theorem setPc_phase (a : Addr) : (s.setPc a).phase = s.phase := rfl
@[simp] theorem setPc_cyc (a : Addr) : (s.setPc a).cyc = s.cyc := rfl
@[simp] theorem setPc_fatal (a : Addr) : (s.setPc a).fatal = s.fatal := rfl
@[simp] theorem setPc_fatalPc (a : Addr) : (s.setPc a).fatalPc = s.fatalPc := rfl
@[simp] theorem setPc_fatalInfo (a : Addr) : (s.setPc a).fatalInfo = s.fatalInfo := rfl
@[simp] theorem setPc_tone (a : Addr) : (s.setPc a).tone = s.tone := rfl
@[simp] theorem setPc_diagValid (a : Addr) : (s.setPc a).diagValid = s.diagValid := rfl
@[simp] theorem setPc_diagOpcode (a : Addr) : (s.setPc a).diagOpcode = s.diagOpcode := rfl
@[simp] theorem setPc_diagPc (a : Addr) : (s.setPc a).diagPc = s.diagPc := rfl
@[simp] theorem setPc_frameDone (a : Addr) : (s.setPc a).frameDone = s.frameDone := rfl
@[simp] theorem setPc_mem (a : Addr) : (s.setPc a).mem = s.mem := rfl
@[simp] theorem setPc_fb (a : Addr) : (s.setPc a).fb = s.fb := rfl
@[simp] theorem setPc_loadOpen (a : Addr) : (s.setPc a).loadOpen = s.loadOpen := rfl
@[simp] theorem setPc_env (a : Addr) : (s.setPc a).env = s.env := rfl
@[simp] theorem setPc_clock (a : Addr) : (s.setPc a).clock = s.clock := rfl
@[simp] theorem setPc_getV (a : Addr) (q : Reg) : (s.setPc a).getV q = s.getV q := rfl
@[simp] theorem setPc_memRead (a : Addr) (k : Nat) : (s.setPc a).memRead k = s.memRead k := rfl
@[simp] theorem setPc_inputs (a : Addr) : (s.setPc a).inputs = s.inputs := rfl

/-! `setI` -/

@[simp] theorem setI_v (a : Addr) : (s.setI a).v = s.v := rfl
@[simp] theorem setI_i (a : Addr) : (s.setI a).i = a := rfl
@[simp] theorem setI_pc (a : Addr) : (s.setI a).pc = s.pc := rfl
@[simp] theorem setI_stack (a : Addr) : (s.setI a).stack = s.stack := rfl
@[simp] theorem setI_dt (a : Addr) : (s.setI a).dt = s.dt := rfl
@[simp] theorem setI_st (a : Addr) : (s.setI a).st = s.st := rfl
@[simp] theorem setI_mode (a : Addr) : (s.setI a).mode = s.mode := rfl
@[simp] theorem setI_phase (a : Addr) : (s.setI a).phase = s.phase := rfl
@[simp] theorem setI_cyc (a : Addr) : (s.setI a).cyc = s.cyc := rfl
@[simp] theorem setI_fatal (a : Addr) : (s.setI a).fatal = s.fatal := rfl
@[simp] theorem setI_fatalPc (a : Addr) : (s.setI a).fatalPc = s.fatalPc := rfl
@[simp] theorem setI_fatalInfo (a : Addr) : (s.setI a).fatalInfo = s.fatalInfo := rfl
@[simp] theorem setI_tone (a : Addr) : (s.setI a).tone = s.tone := rfl
@[simp] theorem setI_diagValid (a : Addr) : (s.setI a).diagValid = s.diagValid := rfl
@[simp] theorem setI_diagOpcode (a : Addr) : (s.setI a).diagOpcode = s.diagOpcode := rfl
@[simp] theorem setI_diagPc (a : Addr) : (s.setI a).diagPc = s.diagPc := rfl
@[simp] theorem setI_frameDone (a : Addr) : (s.setI a).frameDone = s.frameDone := rfl
@[simp] theorem setI_mem (a : Addr) : (s.setI a).mem = s.mem := rfl
@[simp] theorem setI_fb (a : Addr) : (s.setI a).fb = s.fb := rfl
@[simp] theorem setI_loadOpen (a : Addr) : (s.setI a).loadOpen = s.loadOpen := rfl
@[simp] theorem setI_env (a : Addr) : (s.setI a).env = s.env := rfl
@[simp] theorem setI_clock (a : Addr) : (s.setI a).clock = s.clock := rfl
@[simp] theorem setI_getV (a : Addr) (q : Reg) : (s.setI a).getV q = s.getV q := rfl
@[simp] theorem setI_memRead (a : Addr) (k : Nat) : (s.setI a).memRead k = s.memRead k := rfl
@[simp] theorem setI_inputs (a : Addr) : (s.setI a).inputs = s.inputs := rfl

/-! `push` -/

@[simp] theorem push_v (a : Addr) : (s.push a).v = s.v := rfl
@[simp] theorem push_i (a : Addr) : (s.push a).i = s.i := rfl
@[simp] theorem push_pc (a : Addr) : (s.push a).pc = s.pc := rfl
@[simp] theorem push_stack (a : Addr) : (s.push a).stack = s.stack ++ [a] := rfl
@[simp] theorem push_dt (a : Addr) : (s.push a).dt = s.dt := rfl
@[simp] theorem push_st (a : Addr) : (s.push a).st = s.st := rfl
@[simp] theorem push_mode (a : Addr) : (s.push a).mode = s.mode := rfl
@[simp] theorem push_phase (a : Addr) : (s.push a).phase = s.phase := rfl
@[simp] theorem push_cyc (a : Addr) : (s.push a).cyc = s.cyc := rfl
@[simp] theorem push_fatal (a : Addr) : (s.push a).fatal = s.fatal := rfl
@[simp] theorem push_fatalPc (a : Addr) : (s.push a).fatalPc = s.fatalPc := rfl
@[simp] theorem push_fatalInfo (a : Addr) : (s.push a).fatalInfo = s.fatalInfo := rfl
@[simp] theorem push_tone (a : Addr) : (s.push a).tone = s.tone := rfl
@[simp] theorem push_diagValid (a : Addr) : (s.push a).diagValid = s.diagValid := rfl
@[simp] theorem push_diagOpcode (a : Addr) : (s.push a).diagOpcode = s.diagOpcode := rfl
@[simp] theorem push_diagPc (a : Addr) : (s.push a).diagPc = s.diagPc := rfl
@[simp] theorem push_frameDone (a : Addr) : (s.push a).frameDone = s.frameDone := rfl
@[simp] theorem push_mem (a : Addr) : (s.push a).mem = s.mem := rfl
@[simp] theorem push_fb (a : Addr) : (s.push a).fb = s.fb := rfl
@[simp] theorem push_loadOpen (a : Addr) : (s.push a).loadOpen = s.loadOpen := rfl
@[simp] theorem push_env (a : Addr) : (s.push a).env = s.env := rfl
@[simp] theorem push_clock (a : Addr) : (s.push a).clock = s.clock := rfl
@[simp] theorem push_getV (a : Addr) (q : Reg) : (s.push a).getV q = s.getV q := rfl
@[simp] theorem push_memRead (a : Addr) (k : Nat) : (s.push a).memRead k = s.memRead k := rfl
@[simp] theorem push_inputs (a : Addr) : (s.push a).inputs = s.inputs := rfl

/-! `dropTop` -/

@[simp] theorem dropTop_v : (s.dropTop).v = s.v := rfl
@[simp] theorem dropTop_i : (s.dropTop).i = s.i := rfl
@[simp] theorem dropTop_pc : (s.dropTop).pc = s.pc := rfl
@[simp] theorem dropTop_stack : (s.dropTop).stack = s.stack.dropLast := rfl
@[simp] theorem dropTop_dt : (s.dropTop).dt = s.dt := rfl
@[simp] theorem dropTop_st : (s.dropTop).st = s.st := rfl
@[simp] theorem dropTop_mode : (s.dropTop).mode = s.mode := rfl
@[simp] theorem dropTop_phase : (s.dropTop).phase = s.phase := rfl
@[simp] theorem dropTop_cyc : (s.dropTop).cyc = s.cyc := rfl
@[simp] theorem dropTop_fatal : (s.dropTop).fatal = s.fatal := rfl
@[simp] theorem dropTop_fatalPc : (s.dropTop).fatalPc = s.fatalPc := rfl
@[simp] theorem dropTop_fatalInfo : (s.dropTop).fatalInfo = s.fatalInfo := rfl
@[simp] theorem dropTop_tone : (s.dropTop).tone = s.tone := rfl
@[simp] theorem dropTop_diagValid : (s.dropTop).diagValid = s.diagValid := rfl
@[simp] theorem dropTop_diagOpcode : (s.dropTop).diagOpcode = s.diagOpcode := rfl
@[simp] theorem dropTop_diagPc : (s.dropTop).diagPc = s.diagPc := rfl
@[simp] theorem dropTop_frameDone : (s.dropTop).frameDone = s.frameDone := rfl
@[simp] theorem dropTop_mem : (s.dropTop).mem = s.mem := rfl
@[simp] theorem dropTop_fb : (s.dropTop).fb = s.fb := rfl
@[simp] theorem dropTop_loadOpen : (s.dropTop).loadOpen = s.loadOpen := rfl
@[simp] theorem dropTop_env : (s.dropTop).env = s.env := rfl
@[simp] theorem dropTop_clock : (s.dropTop).clock = s.clock := rfl
@[simp] theorem dropTop_getV (q : Reg) : (s.dropTop).getV q = s.getV q := rfl
@[simp] theorem dropTop_memRead (k : Nat) : (s.dropTop).memRead k = s.memRead k := rfl
@[simp] theorem dropTop_inputs : (s.dropTop).inputs = s.inputs := rfl

/-! `memWrite` -/

@[simp] theorem memWrite_v (a : Nat) (b : Byte) : (s.memWrite a b).v = s.v := rfl
@[simp] theorem memWrite_i (a : Nat) (b : Byte) : (s.memWrite a b).i = s.i := rfl
@[simp] theorem memWrite_pc (a : Nat) (b : Byte) : (s.memWrite a b).pc = s.pc := rfl
@[simp] theorem memWrite_stack (a : Nat) (b : Byte) : (s.memWrite a b).stack = s.stack := rfl
@[simp] theorem memWrite_dt (a : Nat) (b : Byte) : (s.memWrite a b).dt = s.dt := rfl
@[simp] theorem memWrite_st (a : Nat) (b : Byte) : (s.memWrite a b).st = s.st := rfl
@[simp] theorem memWrite_mode (a : Nat) (b : Byte) : (s.memWrite a b).mode = s.mode := rfl
@[simp] theorem memWrite_phase (a : Nat) (b : Byte) : (s.memWrite a b).phase = s.phase := rfl
@[simp] theorem memWrite_cyc (a : Nat) (b : Byte) : (s.memWrite a b).cyc = s.cyc := rfl
@[simp] theorem memWrite_fatal (a : Nat) (b : Byte) : (s.memWrite a b).fatal = s.fatal := rfl
@[simp] theorem memWrite_fatalPc (a : Nat) (b : Byte) : (s.memWrite a b).fatalPc = s.fatalPc := rfl
@[simp] theorem memWrite_fatalInfo (a : Nat) (b : Byte) : (s.memWrite a b).fatalInfo = s.fatalInfo := rfl
@[simp] theorem memWrite_tone (a : Nat) (b : Byte) : (s.memWrite a b).tone = s.tone := rfl
@[simp] theorem memWrite_diagValid (a : Nat) (b : Byte) : (s.memWrite a b).diagValid = s.diagValid := rfl
@[simp] theorem memWrite_diagOpcode (a : Nat) (b : Byte) : (s.memWrite a b).diagOpcode = s.diagOpcode := rfl
@[simp] theorem memWrite_diagPc (a : Nat) (b : Byte) : (s.memWrite a b).diagPc = s.diagPc := rfl
@[simp] theorem memWrite_frameDone (a : Nat) (b : Byte) : (s.memWrite a b).frameDone = s.frameDone := rfl
@[simp] theorem memWrite_mem (a : Nat) (b : Byte) : (s.memWrite a b).mem = s.mem.write a b := rfl
@[simp] theorem memWrite_fb (a : Nat) (b : Byte) : (s.memWrite a b).fb = s.fb := rfl
@[simp] theorem memWrite_loadOpen (a : Nat) (b : Byte) : (s.memWrite a b).loadOpen = s.loadOpen := rfl
@[simp] theorem memWrite_env (a : Nat) (b : Byte) : (s.memWrite a b).env = s.env := rfl
@[simp] theorem memWrite_clock (a : Nat) (b : Byte) : (s.memWrite a b).clock = s.clock := rfl
@[simp] theorem memWrite_getV (a : Nat) (b : Byte) (q : Reg) : (s.memWrite a b).getV q = s.getV q := rfl
@[simp] theorem memWrite_inputs (a : Nat) (b : Byte) : (s.memWrite a b).inputs = s.inputs := rfl

/-! `raiseFatal` -/

@[simp] theorem raiseFatal_v (c : BitVec 2) (n : Addr) : (s.raiseFatal c n).v = s.v := rfl
@[simp] theorem raiseFatal_i (c : BitVec 2) (n : Addr) : (s.raiseFatal c n).i = s.i := rfl
@[simp] theorem raiseFatal_pc (c : BitVec 2) (n : Addr) : (s.raiseFatal c n).pc = s.pc := rfl
@[simp] theorem raiseFatal_stack (c : BitVec 2) (n : Addr) : (s.raiseFatal c n).stack = s.stack := rfl
@[simp] theorem raiseFatal_dt (c : BitVec 2) (n : Addr) : (s.raiseFatal c n).dt = s.dt := rfl
@[simp] theorem raiseFatal_st (c : BitVec 2) (n : Addr) : (s.raiseFatal c n).st = s.st := rfl
@[simp] theorem raiseFatal_mode (c : BitVec 2) (n : Addr) : (s.raiseFatal c n).mode = s.mode := rfl
@[simp] theorem raiseFatal_phase (c : BitVec 2) (n : Addr) : (s.raiseFatal c n).phase = .halted := rfl
@[simp] theorem raiseFatal_cyc (c : BitVec 2) (n : Addr) : (s.raiseFatal c n).cyc = s.cyc := rfl
@[simp] theorem raiseFatal_fatal (c : BitVec 2) (n : Addr) : (s.raiseFatal c n).fatal = c := rfl
@[simp] theorem raiseFatal_fatalPc (c : BitVec 2) (n : Addr) : (s.raiseFatal c n).fatalPc = s.pc - 2 := rfl
@[simp] theorem raiseFatal_fatalInfo (c : BitVec 2) (n : Addr) : (s.raiseFatal c n).fatalInfo = n := rfl
@[simp] theorem raiseFatal_tone (c : BitVec 2) (n : Addr) : (s.raiseFatal c n).tone = s.tone := rfl
@[simp] theorem raiseFatal_diagValid (c : BitVec 2) (n : Addr) : (s.raiseFatal c n).diagValid = s.diagValid := rfl
@[simp] theorem raiseFatal_diagOpcode (c : BitVec 2) (n : Addr) : (s.raiseFatal c n).diagOpcode = s.diagOpcode := rfl
@[simp] theorem raiseFatal_diagPc (c : BitVec 2) (n : Addr) : (s.raiseFatal c n).diagPc = s.diagPc := rfl
@[simp] theorem raiseFatal_frameDone (c : BitVec 2) (n : Addr) : (s.raiseFatal c n).frameDone = s.frameDone := rfl
@[simp] theorem raiseFatal_mem (c : BitVec 2) (n : Addr) : (s.raiseFatal c n).mem = s.mem := rfl
@[simp] theorem raiseFatal_fb (c : BitVec 2) (n : Addr) : (s.raiseFatal c n).fb = s.fb := rfl
@[simp] theorem raiseFatal_loadOpen (c : BitVec 2) (n : Addr) : (s.raiseFatal c n).loadOpen = s.loadOpen := rfl
@[simp] theorem raiseFatal_env (c : BitVec 2) (n : Addr) : (s.raiseFatal c n).env = s.env := rfl
@[simp] theorem raiseFatal_clock (c : BitVec 2) (n : Addr) : (s.raiseFatal c n).clock = s.clock := rfl
@[simp] theorem raiseFatal_getV (c : BitVec 2) (n : Addr) (q : Reg) : (s.raiseFatal c n).getV q = s.getV q := rfl
@[simp] theorem raiseFatal_memRead (c : BitVec 2) (n : Addr) (k : Nat) : (s.raiseFatal c n).memRead k = s.memRead k := rfl
@[simp] theorem raiseFatal_inputs (c : BitVec 2) (n : Addr) : (s.raiseFatal c n).inputs = s.inputs := rfl

/-! `raiseDiagnostic` -/

@[simp] theorem raiseDiagnostic_v (op : Word) : (s.raiseDiagnostic op).v = s.v := rfl
@[simp] theorem raiseDiagnostic_i (op : Word) : (s.raiseDiagnostic op).i = s.i := rfl
@[simp] theorem raiseDiagnostic_pc (op : Word) : (s.raiseDiagnostic op).pc = s.pc := rfl
@[simp] theorem raiseDiagnostic_stack (op : Word) : (s.raiseDiagnostic op).stack = s.stack := rfl
@[simp] theorem raiseDiagnostic_dt (op : Word) : (s.raiseDiagnostic op).dt = s.dt := rfl
@[simp] theorem raiseDiagnostic_st (op : Word) : (s.raiseDiagnostic op).st = s.st := rfl
@[simp] theorem raiseDiagnostic_mode (op : Word) : (s.raiseDiagnostic op).mode = s.mode := rfl
@[simp] theorem raiseDiagnostic_phase (op : Word) : (s.raiseDiagnostic op).phase = s.phase := rfl
@[simp] theorem raiseDiagnostic_cyc (op : Word) : (s.raiseDiagnostic op).cyc = s.cyc := rfl
@[simp] theorem raiseDiagnostic_fatal (op : Word) : (s.raiseDiagnostic op).fatal = s.fatal := rfl
@[simp] theorem raiseDiagnostic_fatalPc (op : Word) : (s.raiseDiagnostic op).fatalPc = s.fatalPc := rfl
@[simp] theorem raiseDiagnostic_fatalInfo (op : Word) : (s.raiseDiagnostic op).fatalInfo = s.fatalInfo := rfl
@[simp] theorem raiseDiagnostic_tone (op : Word) : (s.raiseDiagnostic op).tone = s.tone := rfl
@[simp] theorem raiseDiagnostic_diagValid (op : Word) : (s.raiseDiagnostic op).diagValid = true := rfl
@[simp] theorem raiseDiagnostic_diagOpcode (op : Word) : (s.raiseDiagnostic op).diagOpcode = op := rfl
@[simp] theorem raiseDiagnostic_diagPc (op : Word) : (s.raiseDiagnostic op).diagPc = s.pc - 2 := rfl
@[simp] theorem raiseDiagnostic_frameDone (op : Word) : (s.raiseDiagnostic op).frameDone = s.frameDone := rfl
@[simp] theorem raiseDiagnostic_mem (op : Word) : (s.raiseDiagnostic op).mem = s.mem := rfl
@[simp] theorem raiseDiagnostic_fb (op : Word) : (s.raiseDiagnostic op).fb = s.fb := rfl
@[simp] theorem raiseDiagnostic_loadOpen (op : Word) : (s.raiseDiagnostic op).loadOpen = s.loadOpen := rfl
@[simp] theorem raiseDiagnostic_env (op : Word) : (s.raiseDiagnostic op).env = s.env := rfl
@[simp] theorem raiseDiagnostic_clock (op : Word) : (s.raiseDiagnostic op).clock = s.clock := rfl
@[simp] theorem raiseDiagnostic_getV (op : Word) (q : Reg) : (s.raiseDiagnostic op).getV q = s.getV q := rfl
@[simp] theorem raiseDiagnostic_memRead (op : Word) (k : Nat) : (s.raiseDiagnostic op).memRead k = s.memRead k := rfl
@[simp] theorem raiseDiagnostic_inputs (op : Word) : (s.raiseDiagnostic op).inputs = s.inputs := rfl

/-! `clearPulses` -/

@[simp] theorem clearPulses_v : (s.clearPulses).v = s.v := rfl
@[simp] theorem clearPulses_i : (s.clearPulses).i = s.i := rfl
@[simp] theorem clearPulses_pc : (s.clearPulses).pc = s.pc := rfl
@[simp] theorem clearPulses_stack : (s.clearPulses).stack = s.stack := rfl
@[simp] theorem clearPulses_dt : (s.clearPulses).dt = s.dt := rfl
@[simp] theorem clearPulses_st : (s.clearPulses).st = s.st := rfl
@[simp] theorem clearPulses_mode : (s.clearPulses).mode = s.mode := rfl
@[simp] theorem clearPulses_phase : (s.clearPulses).phase = s.phase := rfl
@[simp] theorem clearPulses_cyc : (s.clearPulses).cyc = s.cyc := rfl
@[simp] theorem clearPulses_fatal : (s.clearPulses).fatal = s.fatal := rfl
@[simp] theorem clearPulses_fatalPc : (s.clearPulses).fatalPc = s.fatalPc := rfl
@[simp] theorem clearPulses_fatalInfo : (s.clearPulses).fatalInfo = s.fatalInfo := rfl
@[simp] theorem clearPulses_tone : (s.clearPulses).tone = s.tone := rfl
@[simp] theorem clearPulses_diagValid : (s.clearPulses).diagValid = false := rfl
@[simp] theorem clearPulses_diagOpcode : (s.clearPulses).diagOpcode = s.diagOpcode := rfl
@[simp] theorem clearPulses_diagPc : (s.clearPulses).diagPc = s.diagPc := rfl
@[simp] theorem clearPulses_frameDone : (s.clearPulses).frameDone = false := rfl
@[simp] theorem clearPulses_mem : (s.clearPulses).mem = s.mem := rfl
@[simp] theorem clearPulses_fb : (s.clearPulses).fb = s.fb := rfl
@[simp] theorem clearPulses_loadOpen : (s.clearPulses).loadOpen = s.loadOpen := rfl
@[simp] theorem clearPulses_env : (s.clearPulses).env = s.env := rfl
@[simp] theorem clearPulses_clock : (s.clearPulses).clock = s.clock := rfl
@[simp] theorem clearPulses_getV (q : Reg) : (s.clearPulses).getV q = s.getV q := rfl
@[simp] theorem clearPulses_memRead (k : Nat) : (s.clearPulses).memRead k = s.memRead k := rfl
@[simp] theorem clearPulses_inputs : (s.clearPulses).inputs = s.inputs := rfl

/-! `passTime` -/

@[simp] theorem passTime_v : (s.passTime).v = s.v := rfl
@[simp] theorem passTime_i : (s.passTime).i = s.i := rfl
@[simp] theorem passTime_pc : (s.passTime).pc = s.pc := rfl
@[simp] theorem passTime_stack : (s.passTime).stack = s.stack := rfl
@[simp] theorem passTime_dt : (s.passTime).dt = s.dt := rfl
@[simp] theorem passTime_st : (s.passTime).st = s.st := rfl
@[simp] theorem passTime_mode : (s.passTime).mode = s.mode := rfl
@[simp] theorem passTime_phase : (s.passTime).phase = s.phase := rfl
@[simp] theorem passTime_cyc : (s.passTime).cyc = s.cyc := rfl
@[simp] theorem passTime_fatal : (s.passTime).fatal = s.fatal := rfl
@[simp] theorem passTime_fatalPc : (s.passTime).fatalPc = s.fatalPc := rfl
@[simp] theorem passTime_fatalInfo : (s.passTime).fatalInfo = s.fatalInfo := rfl
@[simp] theorem passTime_tone : (s.passTime).tone = s.tone := rfl
@[simp] theorem passTime_diagValid : (s.passTime).diagValid = s.diagValid := rfl
@[simp] theorem passTime_diagOpcode : (s.passTime).diagOpcode = s.diagOpcode := rfl
@[simp] theorem passTime_diagPc : (s.passTime).diagPc = s.diagPc := rfl
@[simp] theorem passTime_frameDone : (s.passTime).frameDone = s.frameDone := rfl
@[simp] theorem passTime_mem : (s.passTime).mem = s.mem := rfl
@[simp] theorem passTime_fb : (s.passTime).fb = s.fb := rfl
@[simp] theorem passTime_loadOpen : (s.passTime).loadOpen = s.loadOpen := rfl
@[simp] theorem passTime_env : (s.passTime).env = s.env.tail := rfl
@[simp] theorem passTime_clock : (s.passTime).clock = s.clock + 1 := rfl
@[simp] theorem passTime_getV (q : Reg) : (s.passTime).getV q = s.getV q := rfl
@[simp] theorem passTime_memRead (k : Nat) : (s.passTime).memRead k = s.memRead k := rfl

/-! `frameEnd` -/

@[simp] theorem frameEnd_v : (s.frameEnd).v = s.v := rfl
@[simp] theorem frameEnd_i : (s.frameEnd).i = s.i := rfl
@[simp] theorem frameEnd_pc : (s.frameEnd).pc = s.pc := rfl
@[simp] theorem frameEnd_stack : (s.frameEnd).stack = s.stack := rfl
@[simp] theorem frameEnd_dt : (s.frameEnd).dt = countDown s.dt := rfl
@[simp] theorem frameEnd_st : (s.frameEnd).st = countDown s.st := rfl
@[simp] theorem frameEnd_mode : (s.frameEnd).mode = s.mode := rfl
@[simp] theorem frameEnd_phase : (s.frameEnd).phase = .idle := rfl
@[simp] theorem frameEnd_cyc : (s.frameEnd).cyc = 0 := rfl
@[simp] theorem frameEnd_fatal : (s.frameEnd).fatal = s.fatal := rfl
@[simp] theorem frameEnd_fatalPc : (s.frameEnd).fatalPc = s.fatalPc := rfl
@[simp] theorem frameEnd_fatalInfo : (s.frameEnd).fatalInfo = s.fatalInfo := rfl
@[simp] theorem frameEnd_tone : (s.frameEnd).tone = decide ((countDown s.st).toNat > 0) := rfl
@[simp] theorem frameEnd_diagValid : (s.frameEnd).diagValid = s.diagValid := rfl
@[simp] theorem frameEnd_diagOpcode : (s.frameEnd).diagOpcode = s.diagOpcode := rfl
@[simp] theorem frameEnd_diagPc : (s.frameEnd).diagPc = s.diagPc := rfl
@[simp] theorem frameEnd_frameDone : (s.frameEnd).frameDone = true := rfl
@[simp] theorem frameEnd_mem : (s.frameEnd).mem = s.mem := rfl
@[simp] theorem frameEnd_fb : (s.frameEnd).fb = s.fb := rfl
@[simp] theorem frameEnd_loadOpen : (s.frameEnd).loadOpen = s.loadOpen := rfl
@[simp] theorem frameEnd_env : (s.frameEnd).env = s.env := rfl
@[simp] theorem frameEnd_clock : (s.frameEnd).clock = s.clock := rfl
@[simp] theorem frameEnd_getV (q : Reg) : (s.frameEnd).getV q = s.getV q := rfl
@[simp] theorem frameEnd_memRead (k : Nat) : (s.frameEnd).memRead k = s.memRead k := rfl
@[simp] theorem frameEnd_inputs : (s.frameEnd).inputs = s.inputs := rfl

/-- A register read after a register write (R20: no register is hard-wired). -/
@[simp] theorem setV_getV (r : Reg) (b : Byte) (q : Reg) :
    (s.setV r b).getV q = if r = q then b else s.getV q := by
  simp [State.getV, State.setV, Vector.getElem_set, Fin.ext_iff]

end Sys2Proof.Machine
end

