-- ==== Sys2Proof/Laws/Ops.lean ====
section
/-! SUPPORT. What each shared operation can do, said once. -/

namespace Sys2Proof.Machine

/-- R23, R122: the flag is written last. -/
theorem setResultThenFlag_getV (s : State) (x : Reg) (r : Byte) (f : Bool) (q : Reg) :
    (s.setResultThenFlag x r f).getV q = if q = regF then flagByte f else if q = x then r else s.getV q := by
  simp only [State.setResultThenFlag, setV_getV, eq_comm (a := q)]

/-- A result and a flag are written to `v` alone. -/
theorem setResultThenFlag_eq (s : State) (x : Reg) (r : Byte) (f : Bool) :
    s.setResultThenFlag x r f = { s with v := (s.v.set x.val r).set regF.val (flagByte f) } := rfl

/-- R22: a flag is 0 or 1. -/
theorem flagByte_toNat (f : Bool) : (flagByte f).toNat = if f then 1 else 0 := by cases f <;> rfl

/-- R100: a skip writes `PC` alone, and only when its condition holds. -/
theorem skipIf_eq (s : State) (c : Bool) : s.skipIf c = s.setPc (if c then s.pc + 2 else s.pc) := by
  cases c <;> rfl

/-- R221: the end of an instruction step counts in `CYC` alone. -/
theorem countCompleted_eq (s : State) :
    s.countCompleted = { s with cyc := if s.phase ≠ .halted ∧ s.mode = .run then s.cyc + 1 else s.cyc } := by
  unfold State.countCompleted; split <;> simp_all

/-- R193: what a poll does. -/
theorem pollStep_cases (s : State) (x : Reg) :
    (s.lastKey = none ∧ s.pollStep x = s) ∨
    ∃ c, s.lastKey = some c ∧ s.pollStep x = { s.setV x (keyByte c) with mode := .run, cyc := s.cyc + 1 } := by
  unfold State.pollStep
  cases h : s.lastKey with
  | none => exact .inl ⟨rfl, rfl⟩
  | some c => exact .inr ⟨c, rfl, rfl⟩

/-- The answer of the execute phase, carried to the end of the step. -/
theorem afterExec_next {r : Result} {u : State} (h : afterExec r = .next u) :
    ∃ t, r = .next t ∧ u = t.countCompleted.passTime := by
  cases r with
  | next t => exact ⟨t, rfl, by simpa [afterExec] using h.symm⟩
  | fault f => simp [afterExec] at h
  | refused f => simp [afterExec] at h

/-- R230: the load port writes one byte, or nothing. -/
theorem applyLoad_eq (s : State) (p : Inputs) :
    s.applyLoad p = { s with mem := if p.loadEn then s.mem.write p.loadAddr.toNat p.loadData else s.mem } := by
  unfold State.applyLoad; split <;> simp_all [State.memWrite]

theorem applyLoad_wf (s : State) (p : Inputs) (h : s.mem.wf) : (s.applyLoad p).mem.wf := by
  rw [applyLoad_eq]; dsimp only; split
  · exact Memory.write_wf _ _ _ h
  · exact h

/-- R236, R6: the load port writes one byte in its window, and at any other time nothing. -/
theorem serveLoad_eq (s : State) (p : Inputs) :
    s.serveLoad p =
      { s with mem := if s.loadWindow && p.loadEn then s.mem.write p.loadAddr.toNat p.loadData else s.mem } := by
  unfold State.serveLoad
  split
  · rename_i h; rw [applyLoad_eq, h]; rfl
  · rename_i h; simp [h]

theorem serveLoad_wf (s : State) (p : Inputs) (h : s.mem.wf) : (s.serveLoad p).mem.wf := by
  unfold State.serveLoad; split
  · exact applyLoad_wf s p h
  · exact h

/-- R39: with this hardware's configuration the parametrised reset is the reset state. -/
@[simp] theorem resetIn_hw : State.resetIn Config.hw = State.reset := by
  have h : Memory.writeBytes [] 0 Config.hw.font = [] := by decide
  rw [State.resetIn, h]; rfl

/-- R39: the reset memory is in the canonical form, whatever the configuration. -/
theorem resetIn_wf (c : Params) : (State.resetIn c).mem.wf :=
  Memory.writeBytes_wf _ _ _ ⟨List.Pairwise.nil, by simp⟩

/-- R225: a timer falls by one and stops at zero. -/
theorem countDown_toNat (t : Byte) : (countDown t).toNat = t.toNat - 1 := by
  unfold countDown
  split
  · bv_omega
  · omega

/-- R154, R155: the range of Fx55 and Fx65. -/
theorem mem_regsUpTo (x r : Reg) : r ∈ regsUpTo x ↔ r ≤ x := by
  have : ∀ r : Reg, r ∈ allRegs := by decide
  simp [regsUpTo, this]

theorem regsUpTo_nodup (x : Reg) : (regsUpTo x).Nodup :=
  List.Nodup.filter _ (by decide)

/-- R155: what a range of loads makes of a register. -/
theorem loadRange_getV (s : State) (rs : List Reg) (t : State) (q : Reg) :
    (loadRange s rs t).getV q = if q ∈ rs then s.memRead (dataAddr s.i q.val) else t.getV q := by
  induction rs generalizing t with
  | nil => simp [loadRange]
  | cons r rs ih =>
    have := ih (t.setV r (s.memRead (dataAddr s.i r.val)))
    simp only [loadRange, List.foldl_cons] at this ⊢
    rw [this]
    by_cases hq : q ∈ rs
    · simp [hq]
    · by_cases hr : r = q
      · subst hr; simp [hq]
      · simp [hq, hr, Ne.symm hr]

/-- R155: a range of loads writes `v` alone. -/
theorem loadRange_eq (s : State) (rs : List Reg) (t : State) :
    loadRange s rs t = { t with v := (loadRange s rs t).v } := by
  induction rs generalizing t with
  | nil => rfl
  | cons r rs ih =>
    exact ih (t.setV r (s.memRead (dataAddr s.i r.val)))

/-- R156: the addresses of one transfer differ. -/
theorem dataAddr_inj (base : Addr) {j k : Nat} (hj : j < 4096) (hk : k < 4096) :
    dataAddr base j = dataAddr base k ↔ j = k := by
  have := base.isLt
  simp only [dataAddr, wrapAddr]
  omega

theorem dataAddr_lt (base : Addr) (k : Nat) : dataAddr base k < 4096 := Memory.wrapAddr_lt _

theorem storeRange_wf (s : State) (rs : List Reg) (m : Memory) (h : m.wf) : (storeRange s rs m).wf := by
  induction rs generalizing m with
  | nil => exact h
  | cons r rs ih => exact ih _ (Memory.write_wf _ _ _ h)

/-- R154: what a range of stores makes of a byte outside it. -/
theorem storeRange_read_other (s : State) (rs : List Reg) (m : Memory) (a : Nat) (h : m.wf)
    (ha : ∀ r ∈ rs, wrapAddr a ≠ dataAddr s.i r.val) : (storeRange s rs m).read a = m.read a := by
  induction rs generalizing m with
  | nil => rfl
  | cons r rs ih =>
    have hr : wrapAddr a ≠ dataAddr s.i r.val := ha r (by simp)
    have := ih (m.write (dataAddr s.i r.val) (s.getV r)) (Memory.write_wf _ _ _ h) fun q hq => ha q (by simp [hq])
    simp only [storeRange, List.foldl_cons] at this ⊢
    rw [this, Memory.read_write _ _ _ _ h, Memory.wrapAddr_of_lt (dataAddr_lt _ _), if_neg hr]

/-- R154: what a range of stores makes of a byte inside it. -/
theorem storeRange_read_stored (s : State) (rs : List Reg) (m : Memory) (q : Reg) (h : m.wf) (hnd : rs.Nodup)
    (hq : q ∈ rs) : (storeRange s rs m).read (dataAddr s.i q.val) = s.getV q := by
  induction rs generalizing m with
  | nil => simp at hq
  | cons r rs ih =>
    have hnd' := List.nodup_cons.1 hnd
    have hwf : (m.write (dataAddr s.i r.val) (s.getV r)).wf := Memory.write_wf _ _ _ h
    by_cases hmem : q ∈ rs
    · exact ih _ hwf hnd'.2 hmem
    · have hqr : q = r := by simpa [hmem] using hq
      subst hqr
      have := storeRange_read_other s rs (m.write (dataAddr s.i q.val) (s.getV q)) (dataAddr s.i q.val) hwf
        (fun r hr => by
          rw [Memory.wrapAddr_of_lt (dataAddr_lt _ _), Ne, dataAddr_inj _ (by omega) (by omega)]
          intro he
          exact hnd'.1 (Fin.ext he ▸ hr))
      simp only [storeRange, List.foldl_cons] at this ⊢
      rw [this, Memory.read_write _ _ _ _ h, if_pos rfl]

end Sys2Proof.Machine
end

