-- ==== Sys2Proof/Laws/Frame.lean ====
section
/-! SUPPORT. The frame of each shared operation: the parts of the state it can change, and no other. -/

namespace Sys2Proof.Machine

/-- R28: the stack pointer is the length of the stack. -/
@[simp] theorem sp_eq (s : State) : s.sp = s.stack.length := rfl

/-- Nothing changes from a state to itself. -/
theorem sameExcept_refl (changed : Part → Prop) (s : State) : SameExcept changed s s := by
  intro p _; cases p <;> simp [Part.same]

/-- A frame may be widened. -/
theorem sameExcept_mono {c d : Part → Prop} {s t : State} (h : SameExcept c s t) (hcd : ∀ p, c p → d p) :
    SameExcept d s t :=
  fun p hp => h p fun hc => hp (hcd p hc)

/-- Frames compose. -/
theorem sameExcept_trans {c : Part → Prop} {s t u : State} (h : SameExcept c s t) (k : SameExcept c t u) :
    SameExcept c s u := by
  intro p hp
  have h := h p hp
  have k := k p hp
  cases p
  case byte a => exact fun ha => (k ha).trans (h ha)
  case cell a => exact fun ha => (k ha).trans (h ha)
  all_goals exact Eq.trans k h

theorem setV_same (s : State) (x : Reg) (b : Byte) : SameExcept (· = .reg x) s (s.setV x b) := by
  intro p hp; cases p <;> simp_all [Part.same, eq_comm]

theorem setPc_same (s : State) (a : Addr) : SameExcept (· = .pc) s (s.setPc a) := by
  intro p hp; cases p <;> simp_all [Part.same]

theorem setI_same (s : State) (a : Addr) : SameExcept (· = .index) s (s.setI a) := by
  intro p hp; cases p <;> simp_all [Part.same]

theorem skipIf_same (s : State) (c : Bool) : SameExcept (· = .pc) s (s.skipIf c) := by
  rw [skipIf_eq]; exact setPc_same _ _

theorem setResultThenFlag_same (s : State) (x : Reg) (r : Byte) (f : Bool) :
    SameExcept (ResultOrFlag x) s (s.setResultThenFlag x r f) :=
  sameExcept_trans (sameExcept_mono (setV_same s x r) fun _ h => .inl h)
    (sameExcept_mono (setV_same _ regF (flagByte f)) fun _ h => .inr h)

theorem raiseFatal_same (s : State) (code : BitVec 2) (info : Addr) :
    SameExcept FatalPart s (s.raiseFatal code info) := by
  intro p hp; cases p <;> simp_all [Part.same, FatalPart]

theorem raiseDiagnostic_same (s : State) (op : Word) :
    SameExcept (fun p => p = .diagValid ∨ p = .diagOpcode ∨ p = .diagPc) s (s.raiseDiagnostic op) := by
  intro p hp; cases p <;> simp_all [Part.same]

theorem passTime_same (s : State) : SameExcept (fun p => p = .env ∨ p = .clock) s s.passTime := by
  intro p hp; cases p <;> simp_all [Part.same]

end Sys2Proof.Machine
end

