-- ==== Sys2Proof/Laws/PerInstr.lean ====
section
/-! SUPPORT. The family RowMatch: the word of every instruction has the fixed bits of its row of R80. -/

namespace Sys2Proof

/-- R80: the mask of an instruction's row. -/
def rowMask : Instr → Word
  | .cls => 0xFFFF
  | .ret => 0xFFFF
  | .jp _ => 0xF000
  | .call _ => 0xF000
  | .seImm _ _ => 0xF000
  | .sneImm _ _ => 0xF000
  | .ldImm _ _ => 0xF000
  | .addImm _ _ => 0xF000
  | .ldI _ => 0xF000
  | .jpV0 _ => 0xF000
  | .rnd _ _ => 0xF000
  | .drw _ _ _ => 0xF000
  | .seReg _ _ => 0xF00F
  | .ldReg _ _ => 0xF00F
  | .orReg _ _ => 0xF00F
  | .andReg _ _ => 0xF00F
  | .xorReg _ _ => 0xF00F
  | .addReg _ _ => 0xF00F
  | .subReg _ _ => 0xF00F
  | .shr _ _ => 0xF00F
  | .subnReg _ _ => 0xF00F
  | .shl _ _ => 0xF00F
  | .sneReg _ _ => 0xF00F
  | .skp _ => 0xF0FF
  | .sknp _ => 0xF0FF
  | .ldVxDt _ => 0xF0FF
  | .ldVxK _ => 0xF0FF
  | .ldDtVx _ => 0xF0FF
  | .ldStVx _ => 0xF0FF
  | .addI _ => 0xF0FF
  | .ldF _ => 0xF0FF
  | .ldB _ => 0xF0FF
  | .storeRegs _ => 0xF0FF
  | .loadRegs _ => 0xF0FF

/-- R80: the match of an instruction's row. -/
def rowBits : Instr → Word
  | .cls => 0x00E0
  | .ret => 0x00EE
  | .jp _ => 0x1000
  | .call _ => 0x2000
  | .seImm _ _ => 0x3000
  | .sneImm _ _ => 0x4000
  | .seReg _ _ => 0x5000
  | .ldImm _ _ => 0x6000
  | .addImm _ _ => 0x7000
  | .ldReg _ _ => 0x8000
  | .orReg _ _ => 0x8001
  | .andReg _ _ => 0x8002
  | .xorReg _ _ => 0x8003
  | .addReg _ _ => 0x8004
  | .subReg _ _ => 0x8005
  | .shr _ _ => 0x8006
  | .subnReg _ _ => 0x8007
  | .shl _ _ => 0x800E
  | .sneReg _ _ => 0x9000
  | .ldI _ => 0xA000
  | .jpV0 _ => 0xB000
  | .rnd _ _ => 0xC000
  | .drw _ _ _ => 0xD000
  | .skp _ => 0xE09E
  | .sknp _ => 0xE0A1
  | .ldVxDt _ => 0xF007
  | .ldVxK _ => 0xF00A
  | .ldDtVx _ => 0xF015
  | .ldStVx _ => 0xF018
  | .addI _ => 0xF01E
  | .ldF _ => 0xF029
  | .ldB _ => 0xF033
  | .storeRegs _ => 0xF055
  | .loadRegs _ => 0xF065

/-- The fixed bits of format A. -/
theorem formatA_fixed (t : BitVec 4) (nnn : Addr) : formatA t nnn &&& 0xF000 = t ++ (0 : BitVec 12) := by
  have : (0xF000 : Word) = (0xF : BitVec 4) ++ (0 : BitVec 12) := rfl
  rw [this, formatA, BitVec.and_append]
  congr 1
  · exact BitVec.and_allOnes
  · exact BitVec.and_zero

/-- The fixed bits of format I. -/
theorem formatI_fixed (t : BitVec 4) (x : Reg) (kk : Byte) : formatI t x kk &&& 0xF000 = t ++ (0 : BitVec 12) :=
  formatA_fixed t (regBits x ++ kk)

/-- The fixed bits of format D. -/
theorem formatD_fixed (t : BitVec 4) (x y : Reg) (n : BitVec 4) :
    formatR t x y n &&& 0xF000 = t ++ (0 : BitVec 12) :=
  formatA_fixed t (regBits x ++ (regBits y ++ n))

/-- The fixed bits of format X. -/
theorem formatX_fixed (t : BitVec 4) (x : Reg) (fn : Byte) :
    formatX t x fn &&& 0xF0FF = t ++ ((0 : BitVec 4) ++ fn) := by
  have : (0xF0FF : Word) = (0xF : BitVec 4) ++ ((0 : BitVec 4) ++ (0xFF : BitVec 8)) := rfl
  rw [this, formatX, BitVec.and_append, BitVec.and_append]
  congr 1
  · exact BitVec.and_allOnes
  congr 1
  · exact BitVec.and_zero
  · exact BitVec.and_allOnes

/-- The fixed bits of format R. -/
theorem formatR_fixed (t : BitVec 4) (x y : Reg) (sub : BitVec 4) :
    formatR t x y sub &&& 0xF00F = t ++ ((0 : BitVec 4) ++ ((0 : BitVec 4) ++ sub)) := by
  have : (0xF00F : Word) = (0xF : BitVec 4) ++ ((0 : BitVec 4) ++ ((0 : BitVec 4) ++ (0xF : BitVec 4))) := rfl
  rw [this, formatR, BitVec.and_append, BitVec.and_append, BitVec.and_append]
  congr 1
  · exact BitVec.and_allOnes
  congr 1
  · exact BitVec.and_zero
  congr 1
  · exact BitVec.and_zero
  · exact BitVec.and_allOnes

end Sys2Proof

/-- R80: the word of the instruction has the fixed bits of its row. -/
def Sys2Proof.Laws.RowMatch.Statement (i : Sys2Proof.Instr) : Prop :=
  Sys2Proof.encode i &&& Sys2Proof.rowMask i = Sys2Proof.rowBits i

namespace Sys2Proof.Laws.RowMatch

open Sys2Proof

theorem cls : Statement .cls := rfl
theorem ret : Statement .ret := rfl
theorem jp (nnn : Addr) : Statement (.jp nnn) := formatA_fixed 0x1 nnn
theorem call (nnn : Addr) : Statement (.call nnn) := formatA_fixed 0x2 nnn
theorem seImm (x : Reg) (kk : Byte) : Statement (.seImm x kk) := formatI_fixed 0x3 x kk
theorem sneImm (x : Reg) (kk : Byte) : Statement (.sneImm x kk) := formatI_fixed 0x4 x kk
theorem seReg (x : Reg) (y : Reg) : Statement (.seReg x y) := formatR_fixed 0x5 x y 0x0
theorem ldImm (x : Reg) (kk : Byte) : Statement (.ldImm x kk) := formatI_fixed 0x6 x kk
theorem addImm (x : Reg) (kk : Byte) : Statement (.addImm x kk) := formatI_fixed 0x7 x kk
theorem ldReg (x : Reg) (y : Reg) : Statement (.ldReg x y) := formatR_fixed 0x8 x y 0x0
theorem orReg (x : Reg) (y : Reg) : Statement (.orReg x y) := formatR_fixed 0x8 x y 0x1
theorem andReg (x : Reg) (y : Reg) : Statement (.andReg x y) := formatR_fixed 0x8 x y 0x2
theorem xorReg (x : Reg) (y : Reg) : Statement (.xorReg x y) := formatR_fixed 0x8 x y 0x3
theorem addReg (x : Reg) (y : Reg) : Statement (.addReg x y) := formatR_fixed 0x8 x y 0x4
theorem subReg (x : Reg) (y : Reg) : Statement (.subReg x y) := formatR_fixed 0x8 x y 0x5
theorem shr (x : Reg) (y : Reg) : Statement (.shr x y) := formatR_fixed 0x8 x y 0x6
theorem subnReg (x : Reg) (y : Reg) : Statement (.subnReg x y) := formatR_fixed 0x8 x y 0x7
theorem shl (x : Reg) (y : Reg) : Statement (.shl x y) := formatR_fixed 0x8 x y 0xE
theorem sneReg (x : Reg) (y : Reg) : Statement (.sneReg x y) := formatR_fixed 0x9 x y 0x0
theorem ldI (nnn : Addr) : Statement (.ldI nnn) := formatA_fixed 0xA nnn
theorem jpV0 (nnn : Addr) : Statement (.jpV0 nnn) := formatA_fixed 0xB nnn
theorem rnd (x : Reg) (kk : Byte) : Statement (.rnd x kk) := formatI_fixed 0xC x kk
theorem drw (x : Reg) (y : Reg) (n : BitVec 4) : Statement (.drw x y n) := formatD_fixed 0xD x y n
theorem skp (x : Reg) : Statement (.skp x) := formatX_fixed 0xE x 0x9E
theorem sknp (x : Reg) : Statement (.sknp x) := formatX_fixed 0xE x 0xA1
theorem ldVxDt (x : Reg) : Statement (.ldVxDt x) := formatX_fixed 0xF x 0x07
theorem ldVxK (x : Reg) : Statement (.ldVxK x) := formatX_fixed 0xF x 0x0A
theorem ldDtVx (x : Reg) : Statement (.ldDtVx x) := formatX_fixed 0xF x 0x15
theorem ldStVx (x : Reg) : Statement (.ldStVx x) := formatX_fixed 0xF x 0x18
theorem addI (x : Reg) : Statement (.addI x) := formatX_fixed 0xF x 0x1E
theorem ldF (x : Reg) : Statement (.ldF x) := formatX_fixed 0xF x 0x29
theorem ldB (x : Reg) : Statement (.ldB x) := formatX_fixed 0xF x 0x33
theorem storeRegs (x : Reg) : Statement (.storeRegs x) := formatX_fixed 0xF x 0x55
theorem loadRegs (x : Reg) : Statement (.loadRegs x) := formatX_fixed 0xF x 0x65

end Sys2Proof.Laws.RowMatch
end

