-- ==== Sys2Proof/Laws/Step.lean ====
section
/-! SUPPORT. What a step can do and what no instruction does, said once, so that no proof unfolds the step. -/

namespace Sys2Proof.Machine

/-- R8: on this hardware the execute phase is `exec`. -/
@[simp] theorem execIn_hw (i : Instr) (s : State) : execIn Config.hw i s = exec i s := by cases i <;> rfl

/-- R8: no instruction but CALL reads a parameter. -/
theorem execIn_eq_exec {i : Instr} (h : ∀ nnn, i ≠ .call nnn) (c : Params) (s : State) : execIn c i s = exec i s := by
  cases i
  case call nnn => exact absurd rfl (h nnn)
  all_goals rfl

/-- No instruction touches the burst counter, the output latches, the load window or the environment (R21, R225, R226,
R221). -/
theorem execIn_keeps {c : Params} {i : Instr} {s t : State} (h : execIn c i s = .next t) :
    t.cyc = s.cyc ∧ t.tone = s.tone ∧ t.diagValid = s.diagValid ∧ t.diagOpcode = s.diagOpcode ∧
      t.diagPc = s.diagPc ∧ t.frameDone = s.frameDone ∧ t.loadOpen = s.loadOpen ∧ t.env = s.env ∧
      t.clock = s.clock := by
  have skip : ∀ b : Bool, t = s.skipIf b → t.cyc = s.cyc ∧ t.tone = s.tone ∧ t.diagValid = s.diagValid ∧
      t.diagOpcode = s.diagOpcode ∧ t.diagPc = s.diagPc ∧ t.frameDone = s.frameDone ∧ t.loadOpen = s.loadOpen ∧
      t.env = s.env ∧ t.clock = s.clock := by
    rintro b rfl; rw [skipIf_eq]; simp
  cases i
  case ret =>
    simp only [execIn, exec, execRet] at h
    split at h <;> cases h <;> simp
  case call =>
    simp only [execIn, callIn] at h
    split at h <;> cases h <;> simp
  case ldVxK =>
    simp only [execIn, exec, execLdVxK] at h
    split at h <;> cases h <;> simp
  case loadRegs x =>
    simp only [execIn, exec, execLoadRegs] at h
    rw [loadRange_eq] at h
    cases h; simp
  case seImm => exact skip _ (Host.Outcome.next.inj h).symm
  case sneImm => exact skip _ (Host.Outcome.next.inj h).symm
  case seReg => exact skip _ (Host.Outcome.next.inj h).symm
  case sneReg => exact skip _ (Host.Outcome.next.inj h).symm
  case skp => exact skip _ (Host.Outcome.next.inj h).symm
  case sknp => exact skip _ (Host.Outcome.next.inj h).symm
  all_goals cases h; exact ⟨rfl, rfl, rfl, rfl, rfl, rfl, rfl, rfl, rfl⟩

/-- What an instruction does to the execution state (R101, R103, R192): nothing, or it halts the core with a code of
R211, or it starts a key wait. -/
theorem execIn_phase_mode {c : Params} {i : Instr} {s t : State} (h : execIn c i s = .next t) :
    (t.phase = s.phase ∧ t.mode = s.mode ∧ t.fatal = s.fatal) ∨
    (t.phase = .halted ∧ t.mode = s.mode ∧ (t.fatal = codeUnderflow ∨ t.fatal = codeOverflow)) ∨
    (∃ x, i = .ldVxK x ∧ t.phase = s.phase ∧ t.mode = .waitKey x ∧ t.fatal = s.fatal) := by
  have skip : ∀ b : Bool, t = s.skipIf b → t.phase = s.phase ∧ t.mode = s.mode ∧ t.fatal = s.fatal := by
    rintro b rfl; rw [skipIf_eq]; simp
  cases i
  case ret =>
    simp only [execIn, exec, execRet] at h
    split at h <;> cases h <;> simp
  case call =>
    simp only [execIn, callIn] at h
    split at h <;> cases h <;> simp
  case ldVxK =>
    simp only [execIn, exec, execLdVxK] at h
    split at h <;> cases h <;> simp
  case loadRegs x =>
    simp only [execIn, exec, execLoadRegs] at h
    rw [loadRange_eq] at h
    cases h; simp
  case seImm => exact .inl (skip _ (Host.Outcome.next.inj h).symm)
  case sneImm => exact .inl (skip _ (Host.Outcome.next.inj h).symm)
  case seReg => exact .inl (skip _ (Host.Outcome.next.inj h).symm)
  case sneReg => exact .inl (skip _ (Host.Outcome.next.inj h).symm)
  case skp => exact .inl (skip _ (Host.Outcome.next.inj h).symm)
  case sknp => exact .inl (skip _ (Host.Outcome.next.inj h).symm)
  all_goals cases h; exact .inl ⟨rfl, rfl, rfl⟩

/-- Memory and the call stack after an instruction: the canonical form is kept, and the stack changes by CALL and RET
alone (R27, R56). -/
theorem execIn_mem_stack {c : Params} {i : Instr} {s t : State} (h : execIn c i s = .next t) :
    (s.mem.wf → t.mem.wf) ∧
    (t.stack = s.stack ∨ t.stack = s.stack.dropLast ∨
      (s.stack.length ≠ c.stackDepth ∧ t.stack = s.stack ++ [s.pc])) := by
  have skip : ∀ b : Bool, t = s.skipIf b → (s.mem.wf → t.mem.wf) ∧ (t.stack = s.stack ∨
      t.stack = s.stack.dropLast ∨ (s.stack.length ≠ c.stackDepth ∧ t.stack = s.stack ++ [s.pc])) := by
    rintro b rfl; rw [skipIf_eq]; exact ⟨id, .inl rfl⟩
  cases i
  case ret =>
    simp only [execIn, exec, execRet] at h
    split at h <;> cases h <;> simp
  case call =>
    simp only [execIn, callIn] at h
    split at h
    · cases h; exact ⟨id, .inl rfl⟩
    · rename_i hs
      cases h; exact ⟨id, .inr (.inr ⟨hs, rfl⟩)⟩
  case ldVxK =>
    simp only [execIn, exec, execLdVxK] at h
    split at h <;> cases h <;> simp
  case loadRegs x =>
    simp only [execIn, exec, execLoadRegs] at h
    rw [loadRange_eq] at h
    cases h; simp
  case storeRegs x =>
    cases h; exact ⟨storeRange_wf _ _ _, .inl rfl⟩
  case ldB x =>
    cases h; exact ⟨Memory.writeBytes_wf _ _ _, .inl rfl⟩
  case seImm => exact skip _ (Host.Outcome.next.inj h).symm
  case sneImm => exact skip _ (Host.Outcome.next.inj h).symm
  case seReg => exact skip _ (Host.Outcome.next.inj h).symm
  case sneReg => exact skip _ (Host.Outcome.next.inj h).symm
  case skp => exact skip _ (Host.Outcome.next.inj h).symm
  case sknp => exact skip _ (Host.Outcome.next.inj h).symm
  all_goals cases h; exact ⟨id, .inl rfl⟩

/-- The ways a step answers a next state (R222). -/
inductive StepCase (c : Params) (s : State) : State → Prop where
  /-- R222 (a), R250 -/
  | reset (h : s.inputs.reset = true) : StepCase c s (State.takeReset c s s.inputs).passTime
  /-- R222 (b), R219 -/
  | halted (hr : s.inputs.reset = false) (h : s.phase = .halted) : StepCase c s s.clearPulses.passTime
  /-- R222 (c), R223 -/
  | idle (hr : s.inputs.reset = false) (h : s.phase = .idle) : StepCase c s (s.clearPulses.idleStep s.inputs).passTime
  /-- R222 (d), R224 -/
  | frameEnd (hr : s.inputs.reset = false) (h : s.phase = .burst) (hc : s.cyc = c.cpf) :
      StepCase c s s.clearPulses.frameEnd.passTime
  /-- R222 (e), R221, a recognised word -/
  | instr (hr : s.inputs.reset = false) (h : s.phase = .burst) (hc : s.cyc < c.cpf) (hm : s.mode = .run)
      (i : Instr) (hd : decodeWord (fetch16 s.mem s.pc.toNat) = .instr i) (t : State)
      (he : execIn c i s.fetched = .next t) : StepCase c s t.countCompleted.passTime
  /-- R222 (e), R214, an unrecognised word -/
  | unrecognized (hr : s.inputs.reset = false) (h : s.phase = .burst) (hc : s.cyc < c.cpf)
      (hm : s.mode = .run) (op : Word) (hd : decodeWord (fetch16 s.mem s.pc.toNat) = .unrecognized op) :
      StepCase c s (s.fetched.raiseDiagnostic op).countCompleted.passTime
  /-- R222 (f), R193 -/
  | poll (hr : s.inputs.reset = false) (h : s.phase = .burst) (hc : s.cyc < c.cpf) (x : Reg)
      (hm : s.mode = .waitKey x) : StepCase c s (s.clearPulses.pollStep x).passTime

/-- Every next state of a step is one of R222's cases. -/
theorem cycle_cases {c : Params} {s t : State} (h : cycle c s = .next t) : StepCase c s t := by
  simp only [cycle] at h
  split at h
  · rename_i hr
    cases h; exact .reset hr
  · rename_i hr
    replace hr : s.inputs.reset = false := by simpa using hr
    split at h
    · rename_i hp
      cases h; exact .halted hr hp
    · rename_i hp
      cases h; exact .idle hr hp
    · rename_i hp
      simp only [burstStep] at h
      split at h
      · rename_i hc
        cases h; exact .frameEnd hr hp hc
      · rename_i hne
        split at h
        · cases h
        · rename_i hle
          have hc : s.cyc < c.cpf := by omega
          split at h
          · rename_i hm
            simp only [instructionStep] at h
            split at h
            · rename_i i hd
              obtain ⟨u, hu, rfl⟩ := afterExec_next h
              exact .instr hr hp hc hm i hd u hu
            · rename_i op hd
              obtain ⟨u, hu, rfl⟩ := afterExec_next h
              cases hu
              exact .unrecognized hr hp hc hm op hd
          · rename_i x hm
            cases h; exact .poll hr hp hc x hm

/-- The same of this hardware's step. -/
theorem step_cases {s t : State} (h : step s = .next t) : StepCase Config.hw s t := cycle_cases h

/-- The same of `exec` as `execIn_keeps` says of `execIn`. -/
theorem exec_keeps {i : Instr} {s t : State} (h : exec i s = .next t) :
    t.cyc = s.cyc ∧ t.tone = s.tone ∧ t.diagValid = s.diagValid ∧ t.diagOpcode = s.diagOpcode ∧
      t.diagPc = s.diagPc ∧ t.frameDone = s.frameDone ∧ t.loadOpen = s.loadOpen ∧ t.env = s.env ∧
      t.clock = s.clock :=
  execIn_keeps ((execIn_hw i s).trans h)

end Sys2Proof.Machine
end

