-- ==== Sys2Proof/Tests/Slice0.lean ====
section
/-! SUPPORT. The author's own tests. Every expected value is from spec/95_test_vectors.md (named T or S) or worked out by
hand from the rule named; after them, for each obligation with hypotheses, a state that meets them all. -/

open Sys2Proof Sys2Proof.Machine Sys2Proof.Claims

set_option maxRecDepth 20000
set_option exponentiation.threshold 4096

namespace Sys2Proof.Tests

/-! Well-formedness: an ill-formed term for each check -/

theorem test_params_ok : Params.wf Config.hw = true := by decide
theorem test_params_no_cpf : Params.wf { Config.hw with cpf := 0 } = false := by decide
theorem test_params_no_stack : Params.wf { Config.hw with stackDepth := 0 } = false := by decide
theorem test_params_short_font : Params.wf { Config.hw with font := [0xF0] } = false := by decide
theorem test_image_longest : imageWf (List.replicate 3584 0) = true := by
  simp [imageWf, Config.maxImage]
theorem test_image_too_long : imageWf (List.replicate 3585 0) = false := by
  simp [imageWf, Config.maxImage]

/-! Decoding: one word for every constructor, written out bit by bit from the formats of R77 and the rows of R80 -/

theorem test_decode_formats_Z_A :
    [0b0000000011100000, 0b0000000011101110, 0b0001101010111100, 0b0010001101000101, 0b1010000100100011,
      0b1011001100000000].map decodeWord =
    [.instr .cls, .instr .ret, .instr (.jp 0xABC), .instr (.call 0x345), .instr (.ldI 0x123), .instr (.jpV0 0x300)] := by
  decide

theorem test_decode_formats_I_D :
    [0b0011101001000010, 0b0100101001000010, 0b0110101001111111, 0b0111101000000001, 0b1100000100001111,
      0b1101000100100101].map decodeWord =
    [.instr (.seImm 10 0x42), .instr (.sneImm 10 0x42), .instr (.ldImm 10 0x7F), .instr (.addImm 10 1),
      .instr (.rnd 1 0x0F), .instr (.drw 1 2 5)] := by
  decide

theorem test_decode_format_R_skip_and_logic :
    [0b0101000100100000, 0b1001000100100000, 0b1000000100100000, 0b1000000100100001, 0b1000000100100010,
      0b1000000100100011].map decodeWord =
    [.instr (.seReg 1 2), .instr (.sneReg 1 2), .instr (.ldReg 1 2), .instr (.orReg 1 2), .instr (.andReg 1 2),
      .instr (.xorReg 1 2)] := by
  decide

theorem test_decode_format_R_arithmetic :
    [0b1000000100100100, 0b1000000100100101, 0b1000000100100110, 0b1000000100100111, 0b1000000100101110].map decodeWord =
    [.instr (.addReg 1 2), .instr (.subReg 1 2), .instr (.shr 1 2), .instr (.subnReg 1 2), .instr (.shl 1 2)] := by
  decide

theorem test_decode_format_X_keys_and_timers :
    [0b1110001110011110, 0b1110001110100001, 0b1111001100000111, 0b1111001100001010, 0b1111001100010101,
      0b1111001100011000].map decodeWord =
    [.instr (.skp 3), .instr (.sknp 3), .instr (.ldVxDt 3), .instr (.ldVxK 3), .instr (.ldDtVx 3), .instr (.ldStVx 3)] := by
  decide

theorem test_decode_format_X_memory :
    [0b1111010000011110, 0b1111010000101001, 0b1111010000110011, 0b1111010001010101, 0b1111010001100101].map decodeWord =
    [.instr (.addI 4), .instr (.ldF 4), .instr (.ldB 4), .instr (.storeRegs 4), .instr (.loadRegs 4)] := by
  decide

/-- T112 to T120, R81: words that are no instruction. -/
theorem test_decode_unrecognized :
    [0x0000, 0x0200, 0x00E1, 0x5121, 0x8128, 0x812F, 0x9121, 0xE19F, 0xF100].all
      (fun op => decodeWord op == .unrecognized op) = true := by
  decide

/-- R54, R75: bytes high half first, what is left over follows, and one byte is no instruction. -/
theorem test_decode_bytes :
    decodeBytes [0x63, 0x21, 0xAA] = .ok (.ldImm 3 0x21, [0xAA]) ∧ decodeBytes [0x63] = .error .truncated ∧
      decodeTableWord 16 0x6321 = some (.ldImm 3 0x21) ∧ decodeTableWord 16 0x5121 = none := by
  decide

/-! One step: the state the vectors of spec/95_test_vectors.md start from -/

/-- A sample in which nothing is asserted and no key is held. -/
def quiet : Inputs where
  reset := false
  tick := false
  keyHeld := 0
  keyLastValid := false
  keyLast := 0
  rand := 0
  loadEn := false
  loadAddr := 0
  loadData := 0

/-- The reset state inside a burst, with one quiet sample and the named registers set. -/
def start (regs : List (Reg × Byte)) : State :=
  regs.foldl (fun s r => s.setV r.1 r.2) { State.reset with phase := .burst, loadOpen := false, env := [quiet] }

/-- `s` with bytes stored from the address `a` up. -/
def withBytes (s : State) (a : Nat) (bs : List Byte) : State := { s with mem := s.mem.writeBytes a bs }

/-- `s` with the input sample `p` for the next step. -/
def withInput (s : State) (p : Inputs) : State := { s with env := [p] }

/-- A framebuffer with exactly the given cells set. -/
def cells (ks : List Nat) : FrameBuf := ks.foldl (fun b k => b ||| BitVec.twoPow 2048 k) 0

/-- The word `op` stored at `PC`. -/
def load (s : State) (op : Word) : State := withBytes s s.pc.toNat (bytesOf op)

/-- One step with the word `op` stored at `PC` gives a next state that passes the check. -/
def gives (s : State) (op : Word) (check : State → Bool) : Bool :=
  match step (load s op) with
  | .next t => check t
  | _ => false

/-! Control flow -/

theorem test_jp : gives (start []) 0x1ABC (fun t => t.pc == 0xABC && t.cyc == 1) = true := by decide -- T1
theorem test_call : gives (start []) 0x2345 (fun t => t.pc == 0x345 && t.stack == [0x202]) = true := by decide -- T3
theorem test_call_full : gives { start [] with stack := List.replicate 16 0x111 } 0x2345 (fun t =>
    t.pc == 0x202 && t.fatal == 2 && t.fatalPc == 0x200 && t.fatalInfo == 0x345 && t.phase == .halted && t.cyc == 0) =
    true := by decide -- T111
theorem test_ret : gives { start [] with stack := [0x111, 0x300] } 0x00EE (fun t =>
    t.pc == 0x300 && t.stack == [0x111]) = true := by decide -- T4
theorem test_ret_empty : gives (start []) 0x00EE (fun t =>
    t.pc == 0x202 && t.fatal == 1 && t.fatalPc == 0x200 && t.fatalInfo == 0 && t.phase == .halted && t.cyc == 0) =
    true := by decide -- T110
theorem test_se_imm : (gives (start [(10, 0x42)]) 0x3A42 (·.pc == 0x204) &&
    gives (start [(10, 0x41)]) 0x3A42 (·.pc == 0x202)) = true := by decide -- T5, T6
theorem test_sne_imm : (gives (start [(10, 0x41)]) 0x4A42 (·.pc == 0x204) &&
    gives (start [(10, 0x42)]) 0x4A42 (·.pc == 0x202)) = true := by decide -- T7, T8
theorem test_se_reg : (gives (start [(1, 7), (2, 7)]) 0x5120 (·.pc == 0x204) &&
    gives (start [(1, 7), (2, 8)]) 0x5120 (·.pc == 0x202)) = true := by decide -- T9, T10
theorem test_sne_reg : (gives (start [(1, 7), (2, 8)]) 0x9120 (·.pc == 0x204) &&
    gives (start [(1, 9)]) 0x9110 (·.pc == 0x202)) = true := by decide -- T11, T127
theorem test_jp_v0_wraps : gives (start [(0, 2)]) 0xBFFF (·.pc == 0x001) = true := by decide -- T124
theorem test_skip_wraps : gives { start [] with pc := 0xFFE } 0x3000 (·.pc == 0x002) = true := by decide -- T123

/-- T121: a fetch at 0xFFF takes its second byte from 0x000. -/
theorem test_fetch_wraps : gives { start [] with pc := 0xFFF } 0x12F0 (·.pc == 0x2F0) = true := by decide

/-! Arithmetic, logic, shift and random -/

theorem test_ld_imm : gives (start [(10, 0x11)]) 0x6A7F (·.getV 10 == 0x7F) = true := by decide -- T13
theorem test_add_imm_wraps : gives (start [(10, 0xFF), (15, 1)]) 0x7A01 (fun t => t.getV 10 == 0 && t.getV 15 == 1) =
    true := by decide -- T14
theorem test_ld_reg : gives (start [(2, 0x5A), (15, 9)]) 0x8120 (fun t => t.getV 1 == 0x5A && t.getV 15 == 9) =
    true := by decide -- T15
theorem test_or : gives (start [(1, 0xF0), (2, 0x0F), (15, 0x55)]) 0x8121 (fun t =>
    t.getV 1 == 0xFF && t.getV 15 == 0x55) = true := by decide -- T16
theorem test_and : gives (start [(1, 0xF0), (2, 0x3C)]) 0x8122 (·.getV 1 == 0x30) = true := by decide -- T17
theorem test_xor : gives (start [(1, 0xFF), (2, 0x0F)]) 0x8123 (·.getV 1 == 0xF0) = true := by decide -- T18
theorem test_add_carry : (gives (start [(1, 0xFF), (2, 1)]) 0x8124 (fun t => t.getV 1 == 0 && t.getV 15 == 1) &&
    gives (start [(1, 0xFF), (15, 1)]) 0x8124 (fun t => t.getV 1 == 0xFF && t.getV 15 == 0)) = true := by
  decide -- T30, T29
theorem test_add_flag_wins : (gives (start [(15, 0xFF), (1, 1)]) 0x8F14 (·.getV 15 == 1) &&
    gives (start [(1, 0xFF), (15, 1)]) 0x81F4 (fun t => t.getV 1 == 0 && t.getV 15 == 1)) = true := by decide -- T21, T22
theorem test_sub_equal : gives (start [(1, 7), (2, 7), (15, 1)]) 0x8125 (fun t => t.getV 1 == 0 && t.getV 15 == 0) =
    true := by decide -- T32
theorem test_sub_borrow : gives (start [(1, 3), (2, 5), (15, 1)]) 0x8125 (fun t => t.getV 1 == 0xFE && t.getV 15 == 0) =
    true := by decide -- T33
theorem test_shr : gives (start [(1, 5), (2, 0xFF)]) 0x8126 (fun t => t.getV 1 == 2 && t.getV 15 == 1) = true := by
  decide -- T37
theorem test_shr_vf : gives (start [(15, 2)]) 0x8F06 (·.getV 15 == 0) = true := by decide -- T25
theorem test_subn : gives (start [(1, 3), (2, 5)]) 0x8127 (fun t => t.getV 1 == 2 && t.getV 15 == 1) = true := by
  decide -- T36
theorem test_subn_vf : gives (start [(15, 3), (1, 5)]) 0x8F17 (·.getV 15 == 1) = true := by decide -- T28
theorem test_shl : gives (start [(1, 0x81), (2, 0xFF)]) 0x812E (fun t => t.getV 1 == 2 && t.getV 15 == 1) = true := by
  decide -- T38
theorem test_shl_ignores_vy : gives (start [(1, 0x7F), (2, 0x80), (15, 1)]) 0x812E (fun t =>
    t.getV 1 == 0xFE && t.getV 15 == 0) = true := by decide -- T42
theorem test_rnd : gives (withInput (start [(1, 0xFF)]) { quiet with rand := 0xA7 }) 0xC10F (·.getV 1 == 7) = true := by
  decide -- T19

/-! Index register and memory -/

theorem test_ld_i : gives (start []) 0xA123 (·.i == 0x123) = true := by decide -- T50
theorem test_add_i_wraps : gives { start [(0, 2), (15, 7)] with i := 0xFFF } 0xF01E (fun t =>
    t.i == 1 && t.getV 15 == 7) = true := by decide -- T52
theorem test_ld_f_no_mask : gives (start [(0, 0xFF)]) 0xF029 (·.i == 0x4FB) = true := by decide -- T54
theorem test_ld_b : gives { start [(1, 0xEA)] with i := 0x300 } 0xF133 (fun t =>
    [0x300, 0x301, 0x302].map t.memRead == [2, 3, 4] && t.i == 0x300) = true := by decide -- T55, S5
theorem test_ld_b_wraps : gives (withBytes { start [] with i := 0xFFF } 0xFFF [0x77]) 0xF033 (fun t =>
    [0xFFF, 0x000, 0x001, 0x002].map t.memRead == [0, 0, 0, 0x90]) = true := by decide -- T58
theorem test_store_regs : gives { start [(0, 0x11), (1, 0x22), (2, 0x33), (3, 0x44)] with i := 0x300 } 0xF255 (fun t =>
    [0x300, 0x301, 0x302, 0x303].map t.memRead == [0x11, 0x22, 0x33, 0] && t.i == 0x300) = true := by decide -- T59
theorem test_store_regs_wraps : gives { start [(0, 0x0A), (1, 0x0B), (2, 0x0C), (3, 0x0D)] with i := 0xFFE } 0xF355
    (fun t => [0xFFE, 0xFFF, 0x000, 0x001].map t.memRead == [0x0A, 0x0B, 0x0C, 0x0D]) = true := by decide -- T60
theorem test_load_regs : gives (withBytes { start [(3, 0x99)] with i := 0x300 } 0x300 [1, 2, 3, 4]) 0xF265 (fun t =>
    [t.getV 0, t.getV 1, t.getV 2, t.getV 3] == [1, 2, 3, 0x99] && t.i == 0x300) = true := by decide -- T61
theorem test_load_regs_font : gives (start []) 0xFF65 (fun t => t.v.toList ==
    [0xF0, 0x90, 0x90, 0x90, 0xF0, 0x20, 0x60, 0x20, 0x20, 0x70, 0xF0, 0x10, 0xF0, 0x80, 0xF0, 0xF0]) = true := by
  decide -- T63

/-! Display -/

theorem test_cls : gives { start [(15, 1)] with fb := cells [0, 5, 2047] } 0x00E0 (fun t =>
    t.fb == 0 && t.getV 15 == 1) = true := by decide -- T70
theorem test_drw_collision : gives (withBytes { start [(0, 0x3C)] with i := 0x300, fb := cells [63] } 0x300 [0xFF]) 0xD011
    (fun t => t.fb == cells [0, 1, 2, 3, 60, 61, 62] && t.getV 15 == 1) = true := by decide -- T72
theorem test_drw_coordinate_is_vf : gives (withBytes { start [(15, 0x0A), (1, 3)] with i := 0x300 } 0x300 [0x81]) 0xDF11
    (fun t => t.fb == cells [202, 209] && t.getV 15 == 0) = true := by decide -- T77
theorem test_toggle_negative : (togglePixel (-1) (-1) 0).1 = cells [2047] := by decide -- S1

/-! Keypad and timers -/

theorem test_skp : (gives (withInput (start [(1, 5)]) { quiet with keyHeld := 0x0020 }) 0xE19E (·.pc == 0x204) &&
    gives (withInput (start [(1, 0x15)]) { quiet with keyHeld := 0xFFFF }) 0xE19E (·.pc == 0x202)) = true := by
  decide -- T90, T94
theorem test_sknp : (gives (withInput (start [(1, 5)]) { quiet with keyHeld := 0x0020 }) 0xE1A1 (·.pc == 0x202) &&
    gives (withInput (start [(1, 0x15)]) { quiet with keyHeld := 0xFFFF }) 0xE1A1 (·.pc == 0x204)) = true := by
  decide -- T92, T95
theorem test_ld_vx_dt : gives { start [] with dt := 0x2A } 0xF107 (·.getV 1 == 0x2A) = true := by decide -- T96
theorem test_ld_dt_vx : gives (start [(1, 0x3C)]) 0xF115 (fun t => t.dt == 0x3C && t.st == 0) = true := by decide -- T97
theorem test_ld_st_vx : gives (start [(1, 5)]) 0xF118 (fun t => t.st == 5 && !t.tone) = true := by decide -- T98
theorem test_ld_vx_k : gives (withInput (start []) { quiet with keyLastValid := true, keyLast := 7 }) 0xF10A (fun t =>
    t.getV 1 == 7 && t.mode == .run && t.cyc == 1) = true := by decide -- T99
theorem test_ld_vx_k_waits : gives (start [(1, 0x33)]) 0xF10A (fun t =>
    t.getV 1 == 0x33 && t.mode == .waitKey 1 && t.pc == 0x202 && t.cyc == 0) = true := by decide -- T100

/-! The step machine -/

/-- T102, T103: a poll with no key, and one with a key. -/
theorem test_poll :
    (gives { start [(1, 0x33)] with mode := .waitKey 1, cyc := 4 } 0x0000 (fun t =>
      t.getV 1 == 0x33 && t.mode == .waitKey 1 && t.pc == 0x200 && t.cyc == 4) &&
    gives (withInput { start [(1, 0x33)] with mode := .waitKey 1, cyc := 4 }
      { quiet with keyLastValid := true, keyLast := 0xC }) 0x0000 (fun t =>
      t.getV 1 == 0x0C && t.mode == .run && t.pc == 0x200 && t.cyc == 5)) = true := by decide

/-- T113: an unrecognised word. -/
theorem test_diagnostic : gives (start [(1, 7), (2, 7)]) 0x5121 (fun t =>
    t.pc == 0x202 && t.diagValid && t.diagOpcode == 0x5121 && t.diagPc == 0x200 && t.cyc == 1) = true := by decide

/-- T131, ticks 1 and 2: the tone follows the decremented sound timer. -/
theorem test_frame_end :
    (gives { start [] with cyc := 15, st := 2 } 0x1200 (fun t =>
      t.st == 1 && t.tone && t.frameDone && t.phase == .idle && t.cyc == 0 && t.pc == 0x200) &&
    gives { start [] with cyc := 15, st := 1, tone := true } 0x1200 (fun t => t.st == 0 && !t.tone && t.dt == 0)) =
    true := by decide

/-- R223: a tick is accepted in IDLE. -/
theorem test_tick : gives (withInput State.reset { quiet with tick := true }) 0x1200 (fun t =>
    t.phase == .burst && t.cyc == 0 && t.pc == 0x200) = true := by decide

/-- R218, R250: a halted core stays halted, and reset restores it and clears the memory. -/
theorem test_halted_and_reset :
    (gives { start [] with phase := .halted, fatal := 1 } 0x6107 (fun t => t.phase == .halted && t.getV 1 == 0) &&
    gives (withInput { start [(3, 9)] with phase := .halted, fatal := 1, pc := 0x300 } { quiet with reset := true }) 0x6107
      (fun t => t.phase == .idle && t.fatal == 0 && t.pc == 0x200 && t.getV 3 == 0 && t.mem == [])) = true := by decide

/-- R217, R236: a load has no effect on a halted core, in a burst, or in IDLE after the first tick; before it the byte is
written. -/
theorem test_load_port :
    (let p : Inputs := { quiet with loadEn := true, loadAddr := 0x300, loadData := 7 }
    let s : State := withInput (start []) p
    gives { s with phase := .halted, fatal := 1 } 0x1200 (fun t => t.memRead 0x300 == 0 && t.phase == .halted) &&
    gives s 0x1200 (fun t => t.memRead 0x300 == 0 && t.cyc == 1) &&
    gives { s with phase := .idle } 0x1200 (fun t => t.memRead 0x300 == 0) &&
    gives (withInput State.reset p) 0x1200 (fun t => t.memRead 0x300 == 7)) = true := by decide

/-- T138: with `CPF = 1` the frame-end step follows one instruction. -/
theorem test_cpf_one :
    (match cycle { Config.hw with cpf := 1 } { start [] with cyc := 1, dt := 3 } with
    | .next t => t.dt == 2 && t.phase == .idle
    | _ => false) = true := by decide

/-- R8, R39: another font is in memory after reset, and `STACK_DEPTH` is what CALL compares with. -/
theorem test_parameters :
    ((State.resetIn { Config.hw with font := List.replicate 80 1 }).memRead 79 == 1 &&
    (match execIn { Config.hw with stackDepth := 1 } (.call 0x345) { start [] with stack := [0x202] } with
    | .next t => t.fatal == 2
    | _ => false)) = true := by decide

/-! Witnesses: for each obligation with hypotheses, a state and operands that meet them all, clause by clause -/

/-- A burst state with two quiet samples, the word `op` at 0x200 and `RET` at 0x300. -/
def ready (op : Word) : State := withBytes (load { start [] with env := [quiet, quiet] } op) 0x300 [0x00, 0xEE]

theorem ready_executing (op : Word) : Executing (ready op) where
  noReset := rfl
  burst := rfl
  slot := by show 0 < Config.hw.cpf; decide
  run := rfl

theorem witness_EncodeOfDecode : decodeWord 0x812E = .instr (.shl 1 2) := by decide

theorem witness_StoreSeenByNextFetch : State.reset.mem.wf ∧ 0 < (1 : Reg).val ∧ 14 < (15 : Reg).val := by decide

theorem witness_CanonicalMemoryIsUnique :
    let m := (Memory.write [] 0x300 1).write 0xFFF 2
    let m' := (Memory.write [] 0xFFF 2).write 0x300 1
    m.wf ∧ m'.wf ∧ ∀ a, a < 4096 → m.read a = m'.read a := by
  have h : (Memory.write [] 0x300 1).write 0xFFF 2 = (Memory.write [] 0xFFF 2).write 0x300 1 := by decide
  have hw : ((Memory.write [] 0xFFF 2).write 0x300 1).wf := by decide
  intro m m'
  exact ⟨by rw [show m = m' from h]; exact hw, hw, fun a _ => by rw [show m = m' from h]⟩

theorem witness_RetPopsIntoPc :
    ({ start [] with stack := [0x202] } : State).stack = [] ++ [0x202] ∧ (start []).stack = [] := ⟨rfl, rfl⟩

theorem witness_CallPushesPc_OverflowHalts :
    (start []).stack.length ≠ Config.hw.stackDepth ∧
    ({ start [] with stack := List.replicate 15 0 } : State).stack.length ≠ Config.hw.stackDepth ∧
    ({ start [] with stack := List.replicate 16 0 } : State).stack.length = Config.hw.stackDepth := by decide

/-- The call, and the return it meets in the next step. -/
theorem witness_CallThenReturn :
    Executing (ready 0x2300) ∧ nextWord (ready 0x2300) = encode (.call 0x300) ∧
    (ready 0x2300).stack.length ≠ Config.hw.stackDepth ∧
    ∃ t, step (ready 0x2300) = .next t ∧ Executing t ∧ nextWord t = 0x00EE := by
  refine ⟨ready_executing _, by decide, by decide, _, rfl, ⟨rfl, rfl, ?_, rfl⟩, by decide⟩
  show 1 < Config.hw.cpf
  decide

theorem witness_AddRegisterCarry_SubtractsAndFlags_ShiftsIgnoreVy_DrawTwiceRestores :
    (14 : Reg) ≠ regF ∧ (0 : Reg) ≠ regF := by decide

theorem witness_BcdStoresDigits_StoreRegistersRange_FetchWordIsNext : State.reset.mem.wf := by decide

/-- Other registers, the same memory and `I`. -/
theorem witness_StoreThenLoadRestores : State.reset.mem.wf ∧
    ∃ t, exec (.storeRegs 15) State.reset = .next t ∧ (t.setV 3 7).mem = t.mem ∧ (t.setV 3 7).i = State.reset.i :=
  ⟨by decide, _, rfl, rfl, rfl⟩

/-- The start state of T72. -/
def collides : State := withBytes { start [(0, 0x3C)] with i := 0x300, fb := cells [63] } 0x300 [0xFF]

/-- The start state of T71. -/
def misses : State := withBytes { start [(0, 0x3E), (1, 0x1F)] with i := 0x300 } 0x300 [0xC0]

/-- T72: covered cells that were clear, one covered cell that was set, and a cell not covered; and T71 for the clause
with no covered cell set. -/
theorem witness_DrawFlipsCoveredCells :
    (Covers collides 0 1 1 63 ∧ collides.fb.getLsbD 63 = true ∧ ¬ Covers collides 0 1 1 64) ∧
    (Covers misses 0 1 1 2047 ∧ ∀ k, Covers misses 0 1 1 k → misses.fb.getLsbD k = false) := by
  refine ⟨⟨⟨0, 3, by decide, by decide, by decide, by decide⟩, by decide, ?_⟩,
    ⟨0, 1, by decide, by decide, by decide, by decide⟩, fun k _ => ?_⟩
  · rintro ⟨r, c, hr, hc, -, hk⟩
    have h : r = 0 := by simpa using hr
    subst h
    revert hk
    rw [show (collides.getV 1).toNat = 0 by decide]
    omega
  · show (0 : FrameBuf).getLsbD k = false
    simp

theorem witness_KeyCaptureOrWait :
    (withInput (start []) { quiet with keyLastValid := true, keyLast := 0xF }).inputs.keyLastValid = true ∧
    Executing (ready 0xF10A) ∧ nextWord (ready 0xF10A) = encode (.ldVxK 1) ∧
    (ready 0xF10A).inputs.keyLastValid = false :=
  ⟨rfl, ready_executing _, by decide, rfl⟩

theorem witness_KeyWaitPoll :
    let s : State := { start [] with mode := .waitKey 15, cyc := 14 }
    let u : State := { s with env := [{ quiet with keyLastValid := true, keyLast := 0xF }] }
    (s.inputs.reset = false ∧ s.phase = .burst ∧ s.cyc < Config.hw.cpf ∧ s.mode = .waitKey 15 ∧
      s.inputs.keyLastValid = false) ∧
    (u.inputs.reset = false ∧ u.phase = .burst ∧ u.cyc < Config.hw.cpf ∧ u.mode = .waitKey 15 ∧
      u.inputs.keyLastValid = true) := by decide

theorem witness_KeyWaitHoldsBurst :
    let s : State := { start [] with mode := .waitKey 1, env := [quiet, quiet] }
    s.phase = .burst ∧ s.cyc < Config.hw.cpf ∧ s.mode = .waitKey 1 ∧ 2 ≤ s.env.length ∧
      ∀ p ∈ s.env.take 2, QuietSample p := by
  refine ⟨rfl, by decide, rfl, by decide, ?_⟩
  intro p hp
  have : p = quiet := by simpa [start] using hp
  subst this
  exact ⟨rfl, rfl⟩

theorem witness_UnderflowHalts :
    Executing (ready 0x00EE) ∧ nextWord (ready 0x00EE) = 0x00EE ∧ (ready 0x00EE).stack = [] :=
  ⟨ready_executing _, by decide, rfl⟩

theorem witness_OverflowHalts :
    let s : State := { ready 0x2FFF with stack := List.replicate 16 0x202 }
    Executing s ∧ nextWord s = encode (.call 0xFFF) ∧ s.stack.length = Config.hw.stackDepth :=
  ⟨⟨rfl, rfl, by show 0 < Config.hw.cpf; decide, rfl⟩, by decide, by decide⟩

theorem witness_UnrecognizedWordStep :
    Executing (ready 0x00E1) ∧ decodeWord (nextWord (ready 0x00E1)) = .unrecognized 0x00E1 :=
  ⟨ready_executing _, by decide⟩

theorem witness_OnlyResetLeavesHalted :
    let s : State := { start [] with phase := .halted, fatal := 1 }
    let u : State := withInput s { quiet with reset := true }
    (s.phase = .halted ∧ s.inputs.reset = false) ∧
    (u.phase = .halted ∧ u.inputs.reset = true ∧ u.inputs.loadEn = false) := by decide

theorem witness_StepRunsDecodedInstruction :
    Executing (ready 0xDFFF) ∧ decodeWord (nextWord (ready 0xDFFF)) = .instr (.drw 15 15 15) :=
  ⟨ready_executing _, by decide⟩

theorem witness_TickStartsBurst :
    let s : State := withInput { State.reset with loadOpen := false } { quiet with loadEn := true }
    let u : State := withInput State.reset { quiet with tick := true }
    (s.inputs.reset = false ∧ (s.inputs.loadEn = true → s.loadOpen = false) ∧ s.phase = .idle ∧ s.inputs.tick = false) ∧
    (u.inputs.reset = false ∧ (u.inputs.loadEn = true → u.loadOpen = false) ∧ u.phase = .idle ∧
      u.inputs.tick = true) := by decide

theorem witness_FrameEndStep :
    let s : State := { start [] with cyc := 15, dt := 1, st := 1 }
    s.inputs.reset = false ∧ s.phase = .burst ∧ s.cyc = Config.hw.cpf := by decide

/-- Both timers and the tone change in a frame-end step, and each timer by its own load. -/
theorem witness_TimersChangeOnlySo :
    (∃ t, step { start [] with cyc := 15, dt := 1, st := 1, tone := true } = .next t ∧ t.dt ≠ 1 ∧ t.st ≠ 1 ∧
      t.tone ≠ true) ∧
    (∃ t, step (load (start [(1, 5)]) 0xF115) = .next t ∧ t.dt ≠ 0) ∧
    (∃ t, step (load (start [(1, 5)]) 0xF118) = .next t ∧ t.st ≠ 0) :=
  ⟨⟨_, rfl, by decide⟩, ⟨_, rfl, by decide⟩, ⟨_, rfl, by decide⟩⟩

/-- Three steps: a frame end, an unrecognised word, and an instruction that raises neither pulse. -/
theorem witness_PulsesOnlyInTheirSteps :
    (∃ t, step { start [] with cyc := 15 } = .next t ∧ t.frameDone = true) ∧
    (∃ t, step (start []) = .next t ∧ t.diagValid = true) ∧
    (∃ t, step (load (start []) 0x1200) = .next t ∧ NoPulse t) :=
  ⟨⟨_, rfl, rfl⟩, ⟨_, rfl, by decide⟩, ⟨_, rfl, by decide, by decide⟩⟩

/-- The mode after one more instruction or poll inside a burst: the next state, and whether an instruction completed. -/
def burstStepped (c : Params) (t : State) : Option (State × Bool) :=
  match cycle c t with
  | .next u => if u.phase = .burst then some (u, decide (u.mode = .run)) else none
  | _ => none

/-- The state after `k` steps inside a burst, and how many instructions completed in them. -/
def burstRun (c : Params) (s : State) : Nat → Option (State × Nat)
  | 0 => some (s, 0)
  | k + 1 =>
    match burstRun c s k with
    | some (t, n) =>
      match burstStepped c t with
      | some (u, true) => some (u, n + 1)
      | some (u, false) => some (u, n)
      | none => none
    | none => none

theorem burstStepped_eq {c : Params} {t u : State} {b : Bool} (h : burstStepped c t = some (u, b)) :
    cycle c t = .next u ∧ u.phase = .burst ∧ b = decide (u.mode = .run) := by
  unfold burstStepped at h
  split at h
  · split at h <;> cases h
    exact ⟨by assumption, by assumption, rfl⟩
  · cases h

theorem burstRun_sound {c : Params} {s u : State} {k n : Nat} (h : burstRun c s k = some (u, n)) :
    BurstRun c s n u := by
  induction k generalizing u n with
  | zero => cases h; exact .start
  | succ k ih =>
    unfold burstRun at h
    split at h
    · rename_i t m ht
      split at h
      · rename_i w hw
        cases h
        obtain ⟨h1, h2, h3⟩ := burstStepped_eq hw
        exact .completes (ih ht) h1 h2 (by simpa using h3.symm)
      · rename_i w hw
        cases h
        obtain ⟨h1, h2, h3⟩ := burstStepped_eq hw
        have h3 : u.mode ≠ .run := by simpa using h3.symm
        cases hm : u.mode with
        | run => exact absurd hm h3
        | waitKey x => exact .waits (ih ht) h1 h2 hm
      · cases h
    · cases h

/-- A configuration with one instruction a frame. -/
def oneSlot : Params := { Config.hw with cpf := 1 }

/-- Reset, with Fx0A at 0x200 and samples in which a tick comes, then no key for two steps, then the key 0xB. -/
def waitOnce : State :=
  load { State.reset with env := [{ quiet with tick := true }, quiet, quiet,
    { quiet with keyLastValid := true, keyLast := 0xB }, quiet] } 0xF10A

/-- T132 with this hardware's CPF; and P6 with `CPF = 1`, an Fx0A that waits one poll: from a tick to the frame-end
step. -/
theorem witness_BurstCompletesCpf :
    (∃ a b e, State.reset.phase = .idle ∧ cycle Config.hw State.reset = .next a ∧ a.phase = .burst ∧
      BurstRun Config.hw a 15 b ∧ b.inputs.reset = false ∧ cycle Config.hw b = .next e ∧ e.phase = .idle) ∧
    (∃ a b e, waitOnce.phase = .idle ∧ cycle oneSlot waitOnce = .next a ∧ a.phase = .burst ∧ BurstRun oneSlot a 1 b ∧
      b.inputs.reset = false ∧ cycle oneSlot b = .next e ∧ e.phase = .idle) := by
  refine ⟨?_, ?_⟩
  · have h : ∃ a b e, cycle Config.hw State.reset = .next a ∧ a.phase = .burst ∧
        burstRun Config.hw a 15 = some (b, 15) ∧ b.inputs.reset = false ∧ cycle Config.hw b = .next e ∧
        e.phase = .idle := ⟨_, _, _, rfl, by decide, rfl, by decide, rfl, by decide⟩
    obtain ⟨a, b, e, h1, h2, h3, h4⟩ := h
    exact ⟨a, b, e, rfl, h1, h2, burstRun_sound h3, h4⟩
  · have h : ∃ a b e, cycle oneSlot waitOnce = .next a ∧ a.phase = .burst ∧
        burstRun oneSlot a 3 = some (b, 1) ∧ b.inputs.reset = false ∧ cycle oneSlot b = .next e ∧ e.phase = .idle :=
      ⟨_, _, _, rfl, by decide, rfl, by decide, rfl, by decide⟩
    obtain ⟨a, b, e, h1, h2, h3, h4⟩ := h
    exact ⟨a, b, e, rfl, h1, h2, burstRun_sound h3, h4⟩

theorem witness_ResetStepTakesResetValues :
    let s : State := { start [(3, 9)] with env := [{ quiet with reset := true }] }
    Config.hw.wf = true ∧ s.inputs.reset = true ∧ s.inputs.loadEn = false := by decide

theorem reset_inv : Inv State.reset where
  memory := by decide
  stack := by decide
  cyc := by decide
  fatal := by decide
  code := by decide
  waiting := fun _ h => by cases h
  idle := fun _ => ⟨rfl, rfl⟩
  window := fun _ => rfl

theorem witness_StepKeepsInvariant_StepNeverStuck : Inv State.reset ∧ ∃ t, step State.reset = .next t :=
  ⟨reset_inv, _, rfl⟩

/-- Without a tick, with one in the same step, and while reset is asserted. -/
theorem witness_LoadPortWritesByte_LoadDuringReset :
    let p : Inputs := { quiet with loadEn := true, loadAddr := 0xFFF, loadData := 7 }
    let s : State := withInput State.reset p
    let u : State := withInput State.reset { p with tick := true }
    let r : State := withInput (start []) { p with reset := true }
    (s.mem.wf ∧ s.inputs.reset = false ∧ s.inputs.loadEn = true ∧ s.phase = .idle ∧ s.loadOpen = true) ∧
    (u.mem.wf ∧ u.inputs.reset = false ∧ u.inputs.loadEn = true ∧ u.phase = .idle ∧ u.loadOpen = true ∧
      u.inputs.tick = true) ∧
    (r.inputs.reset = true ∧ r.inputs.loadEn = true) := by decide

/-- In a burst, in IDLE after the first tick, and halted. -/
theorem witness_LoadOutsideWindowIgnored :
    let s : State := start []
    let u : State := { s with phase := .idle }
    let h : State := { s with phase := .halted }
    quiet.reset = false ∧ (s.env = quiet :: [] ∧ ¬ (s.phase = .idle ∧ s.loadOpen = true)) ∧
    (u.env = quiet :: [] ∧ ¬ (u.phase = .idle ∧ u.loadOpen = true)) ∧
    (h.env = quiet :: [] ∧ ¬ (h.phase = .idle ∧ h.loadOpen = true)) := by decide

theorem witness_ProgramLoadContract : State.reset.mem.wf ∧ (List.replicate 3584 (0x12 : Byte)).length ≤ 3584 ∧
    (List.replicate 3585 (0x12 : Byte)).length > 3584 ∧ Config.hw.wf = true ∧
    Params.wf { Config.hw with cpf := 0 } = false := by
  simp only [List.length_replicate]
  decide

/-- A register not listed, and a flag writer. -/
theorem witness_OnlyListedRegistersWritten :
    (∃ t, exec (.addReg 1 2) State.reset = .next t) ∧ ¬ WritesReg (.addReg 1 2) 2 ∧ WritesFlag (.addReg 1 2) := by
  refine ⟨⟨_, rfl⟩, ?_, trivial⟩
  show ¬ ((2 : Reg) = 1 ∨ (2 : Reg) = regF)
  decide

/-- One instruction for each clause, which does change what the clause speaks of. -/
theorem witness_OnlyNamedInstructionsWrite :
    (∃ t, exec (.ldI 1) State.reset = .next t ∧ t.i ≠ State.reset.i) ∧
    (∃ t, exec .cls { State.reset with fb := 1 } = .next t ∧ t.fb ≠ 1) ∧
    (∃ t, exec (.storeRegs 0) State.reset = .next t ∧ t.mem ≠ State.reset.mem) ∧
    (∃ t, exec (.call 0) State.reset = .next t ∧ t.stack ≠ State.reset.stack) ∧
    (∃ t, exec (.ldDtVx 0) { State.reset with dt := 1 } = .next t ∧ t.dt ≠ 1) ∧
    (∃ t, exec (.ldStVx 0) { State.reset with st := 1 } = .next t ∧ t.st ≠ 1) :=
  ⟨⟨_, rfl, by decide⟩, ⟨_, rfl, by decide⟩, ⟨_, rfl, by decide⟩, ⟨_, rfl, by decide⟩, ⟨_, rfl, by decide⟩,
    ⟨_, rfl, by decide⟩⟩

theorem witness_OnlyNamedInstructionsReadInputs : ¬ ReadsInput (.drw 1 2 3) := id

theorem witness_TickIgnoredOutsideIdle :
    (start []).env = quiet :: [] ∧ (start []).phase ≠ .idle ∧
    ({ start [] with phase := .halted } : State).phase ≠ .idle := by decide

end Sys2Proof.Tests
end

section
/-! What a step takes from its input sample: another list of coming samples, or another step number, changes nothing
else, as long as the ports that instructions and polls read show the same. -/

open Sys2Proof.Claims

namespace Sys2Proof.Machine

/-- Two samples that agree on the ports instructions and polls read (R232, R233): the keys and the random byte. -/
structure Inputs.SameReads (p q : Inputs) : Prop where
  keyHeld : p.keyHeld = q.keyHeld
  keyLastValid : p.keyLastValid = q.keyLastValid
  keyLast : p.keyLast = q.keyLast
  rand : p.rand = q.rand

/-- The machine in another environment: other coming samples `e`, and `n` as the number of the step (log 1). -/
def State.inEnvironment (s : State) (e : List Inputs) (n : Nat) : State := { s with env := e, clock := n }

variable {c : Params} {s t : State} {e : List Inputs} {n : Nat} {p q : Inputs}

/-! The parts of the state the step looks at -/

@[simp] theorem inEnvironment_mem : (s.inEnvironment e n).mem = s.mem := rfl
@[simp] theorem inEnvironment_pc : (s.inEnvironment e n).pc = s.pc := rfl
@[simp] theorem inEnvironment_cyc : (s.inEnvironment e n).cyc = s.cyc := rfl
@[simp] theorem inEnvironment_mode : (s.inEnvironment e n).mode = s.mode := rfl
@[simp] theorem inEnvironment_top : (s.inEnvironment e n).top = s.top := rfl
@[simp] theorem inEnvironment_fetched : (s.inEnvironment e n).fetched = s.fetched.inEnvironment e n := rfl
@[simp] theorem inEnvironment_clearPulses :
    (s.inEnvironment e n).clearPulses = s.clearPulses.inEnvironment e n := rfl
@[simp] theorem inEnvironment_frameEnd : (s.inEnvironment e n).frameEnd = s.frameEnd.inEnvironment e n := rfl

/-! The three readings of a sample -/

theorem isKeyHeld_eq_of_sameReads (h : s.inputs.SameReads t.inputs) (k : Byte) : s.isKeyHeld k = t.isKeyHeld k := by
  simp only [State.isKeyHeld, h.keyHeld]

theorem lastKey_eq_of_sameReads (h : s.inputs.SameReads t.inputs) : s.lastKey = t.lastKey := by
  simp only [State.lastKey, h.keyLastValid, h.keyLast]

theorem randByte_eq_of_sameReads (h : s.inputs.SameReads t.inputs) : s.randByte = t.randByte := h.rand

/-! The shared operations do not look at the environment -/

theorem inEnvironment_skipIf (b : Bool) : (s.inEnvironment e n).skipIf b = (s.skipIf b).inEnvironment e n := by
  rw [skipIf_eq, skipIf_eq]; rfl

theorem inEnvironment_countCompleted :
    (t.inEnvironment e n).countCompleted = t.countCompleted.inEnvironment e n := by
  rw [countCompleted_eq, countCompleted_eq]; rfl

theorem inEnvironment_loadRange (rs : List Reg) :
    loadRange (s.inEnvironment e n) rs (t.inEnvironment e n) = (loadRange s rs t).inEnvironment e n := by
  induction rs generalizing t with
  | nil => rfl
  | cons r rs ih => exact ih (t := t.setV r (s.memRead (dataAddr s.i r.val)))

theorem inEnvironment_pollStep (h : (s.inEnvironment e n).inputs.SameReads s.inputs) (x : Reg) :
    (s.inEnvironment e n).pollStep x = (s.pollStep x).inEnvironment e n := by
  simp only [State.pollStep, lastKey_eq_of_sameReads h]
  cases s.lastKey <;> rfl

/-- The passing of time forgets the sample of the step that is over. -/
theorem inEnvironment_passTime (he : e.tail = t.env.tail) (hn : n = t.clock) :
    (t.inEnvironment e n).passTime = t.passTime := by
  simp only [State.passTime, State.inEnvironment, he, hn]

/-- So does the end of the instruction step. -/
theorem afterExec_inEnvironment (he : e.tail = t.env.tail) (hn : n = t.clock) :
    afterExec (.next (t.inEnvironment e n)) = afterExec (.next t) := by
  simp only [afterExec, inEnvironment_countCompleted]
  rw [inEnvironment_passTime] <;> simpa only [countCompleted_eq]

/-- R61, R232, R233: an instruction does the same in every environment that shows it the same, and one that reads no
input does the same in every environment. -/
theorem execIn_inEnvironment (c : Params) (i : Instr) (s : State) (e : List Inputs) (n : Nat)
    (h : ReadsInput i → (s.inEnvironment e n).inputs.SameReads s.inputs) :
    ∃ t, execIn c i s = .next t ∧ execIn c i (s.inEnvironment e n) = .next (t.inEnvironment e n) := by
  cases i
  case ret =>
    simp only [execIn, exec, execRet, inEnvironment_top]
    cases s.top <;> exact ⟨_, rfl, rfl⟩
  case call nnn =>
    by_cases hfull : s.sp = c.stackDepth
    · exact ⟨_, congrArg Host.Outcome.next (if_pos hfull), congrArg Host.Outcome.next (if_pos hfull)⟩
    · exact ⟨_, congrArg Host.Outcome.next (if_neg hfull), congrArg Host.Outcome.next (if_neg hfull)⟩
  case ldVxK x =>
    simp only [execIn, exec, execLdVxK, lastKey_eq_of_sameReads (h trivial)]
    cases s.lastKey <;> exact ⟨_, rfl, rfl⟩
  case rnd x kk =>
    simp only [execIn, exec, execRnd, randByte_eq_of_sameReads (h trivial)]
    exact ⟨_, rfl, rfl⟩
  case skp x =>
    simp only [execIn, exec, execSkp, isKeyHeld_eq_of_sameReads (h trivial)]
    exact ⟨_, rfl, congrArg _ (inEnvironment_skipIf _)⟩
  case sknp x =>
    simp only [execIn, exec, execSknp, isKeyHeld_eq_of_sameReads (h trivial)]
    exact ⟨_, rfl, congrArg _ (inEnvironment_skipIf _)⟩
  case seImm | sneImm | seReg | sneReg => exact ⟨_, rfl, congrArg _ (inEnvironment_skipIf _)⟩
  case loadRegs x => exact ⟨_, rfl, congrArg _ (inEnvironment_loadRange _)⟩
  all_goals exact ⟨_, rfl, rfl⟩

/-- R221: the instruction step takes from its sample what its instruction reads. -/
theorem instructionStep_inEnvironment (h : (s.inEnvironment e s.clock).inputs.SameReads s.inputs)
    (he : e.tail = s.env.tail) : instructionStep c (s.inEnvironment e s.clock) = instructionStep c s := by
  simp only [instructionStep, inEnvironment_mem, inEnvironment_pc, inEnvironment_fetched]
  cases decodeWord (fetch16 s.mem s.pc.toNat) with
  | instr i =>
    obtain ⟨t, hs, ht⟩ := execIn_inEnvironment c i s.fetched e s.clock fun _ => h
    obtain ⟨-, -, -, -, -, -, -, henv, hclock⟩ := execIn_keeps hs
    simp only [hs, ht]
    exact afterExec_inEnvironment (by rw [henv]; exact he) hclock.symm
  | unrecognized op => exact afterExec_inEnvironment (t := s.fetched.raiseDiagnostic op) he rfl

/-- R222 (d), (e), (f): a step of a burst takes from its sample the keys and the random byte alone. -/
theorem burstStep_inEnvironment (h : (s.inEnvironment e s.clock).inputs.SameReads s.inputs)
    (he : e.tail = s.env.tail) : burstStep c (s.inEnvironment e s.clock) = burstStep c s := by
  have hframe : (s.clearPulses.frameEnd.inEnvironment e s.clock).passTime = s.clearPulses.frameEnd.passTime :=
    inEnvironment_passTime he rfl
  have hpoll (x : Reg) : ((s.clearPulses.inEnvironment e s.clock).pollStep x).passTime =
      (s.clearPulses.pollStep x).passTime := by
    rw [inEnvironment_pollStep (s := s.clearPulses) h x]
    obtain ⟨-, hp⟩ | ⟨k, -, hp⟩ := pollStep_cases s.clearPulses x <;> rw [hp] <;>
      exact inEnvironment_passTime he rfl
  simp only [burstStep, inEnvironment_cyc, inEnvironment_mode, inEnvironment_clearPulses, inEnvironment_frameEnd,
    hframe, hpoll, instructionStep_inEnvironment h he]

/-! Step selection without reset (R222), one equation a phase -/

theorem step_of_halted (hr : s.inputs.reset = false) (hp : s.phase = .halted) :
    step s = .next s.clearPulses.passTime := by
  simp [step, cycle, hr, hp]

theorem step_of_idle (hr : s.inputs.reset = false) (hp : s.phase = .idle) :
    step s = .next (s.clearPulses.idleStep s.inputs).passTime := by
  simp [step, cycle, hr, hp]

theorem step_of_burst (hr : s.inputs.reset = false) (hp : s.phase = .burst) :
    step s = burstStep Config.hw s := by
  simp [step, cycle, hr, hp]

/-- R223, R236: once the load port's window is closed, IDLE takes from its sample the tick alone. -/
theorem idleStep_of_closed (h : s.loadOpen = false) (p : Inputs) :
    s.idleStep p = if p.tick then { s with phase := .burst, cyc := 0, loadOpen := false } else s := by
  have hw : s.serveLoad p = s := by simp [State.serveLoad, State.loadWindow, h]
  rw [State.idleStep, hw]

/-- R223: so no other port of the sample shows. -/
theorem idleStep_inEnvironment (hopen : s.loadOpen = false) (htick : q.tick = p.tick) (he : e.tail = s.env.tail) :
    ((s.inEnvironment e s.clock).idleStep q).passTime = (s.idleStep p).passTime := by
  rw [idleStep_of_closed hopen, idleStep_of_closed (s := s.inEnvironment e s.clock) hopen, htick]
  split
  · exact inEnvironment_passTime (t := { s with phase := .burst, cyc := 0, loadOpen := false }) he rfl
  · exact inEnvironment_passTime he rfl

/-- R6, R217, R236: outside the load port's window a step without reset takes from its sample the tick, the keys and
the random byte alone. HALTED reads none of them, IDLE the tick, and a burst the keys and the random byte. -/
theorem step_sample_of_closed {rest : List Inputs} (henv : s.env = p :: rest) (hp : p.reset = false)
    (hq : q.reset = false) (htick : q.tick = p.tick) (hreads : q.SameReads p)
    (hclosed : ¬ (s.phase = .idle ∧ s.loadOpen = true)) :
    step (s.inEnvironment (q :: rest) s.clock) = step s := by
  have hin : s.inputs = p := by rw [State.inputs, henv]
  have hin' : (s.inEnvironment (q :: rest) s.clock).inputs = q := rfl
  have htail : (q :: rest).tail = s.env.tail := by rw [henv]; rfl
  rw [← hin] at hp htick hreads
  rw [← hin'] at hq htick
  cases hphase : s.phase with
  | halted =>
    rw [step_of_halted hq hphase, step_of_halted hp hphase]
    exact congrArg _ (inEnvironment_passTime (t := s.clearPulses) htail rfl)
  | idle =>
    have hopen : s.loadOpen = false := by simpa [hphase] using hclosed
    rw [step_of_idle hq hphase, step_of_idle hp hphase]
    exact congrArg _ (idleStep_inEnvironment (s := s.clearPulses) hopen htick htail)
  | burst =>
    rw [step_of_burst hq hphase, step_of_burst hp hphase]
    exact burstStep_inEnvironment hreads htail

end Sys2Proof.Machine
end

section
/-! The load port of the family 00_scope.md. -/

namespace Sys2Proof.Machine

/-- Settles O53: the three ports of the load are none of those a step outside the window takes from its sample. -/
theorem loadOutsideWindowIgnored : Obligations.LoadOutsideWindowIgnored := by
  unfold Obligations.LoadOutsideWindowIgnored
  intro s p rest b a d henv hreset hclosed
  exact step_sample_of_closed henv hreset hreset rfl ⟨rfl, rfl, rfl, rfl⟩ hclosed

end Sys2Proof.Machine
end

section
/-! What an instruction writes, over all instructions: the registers, and the parts of the state that are named with
their instructions. -/

open Sys2Proof.Claims

namespace Sys2Proof.Machine

variable {i : Instr} {s t : State}

/-! The three instructions whose meaning branches -/

/-- R101: RET halts the core or pops into `PC`. -/
theorem exec_ret_cases (h : exec .ret s = .next t) :
    t = s.raiseFatal codeUnderflow 0 ∨ ∃ a, t = s.dropTop.setPc a := by
  simp only [exec, execRet] at h
  split at h <;> cases h
  · exact .inl rfl
  · exact .inr ⟨_, rfl⟩

/-- R103: CALL halts the core or pushes and jumps. -/
theorem exec_call_cases {nnn : Addr} (h : exec (.call nnn) s = .next t) :
    t = s.raiseFatal codeOverflow nnn ∨ t = (s.push s.pc).setPc nnn := by
  simp only [exec, execCall, callIn] at h
  split at h <;> cases h
  · exact .inl rfl
  · exact .inr rfl

/-- R192: Fx0A writes its register or starts a key wait. -/
theorem exec_ldVxK_cases {x : Reg} (h : exec (.ldVxK x) s = .next t) :
    (∃ b, t = s.setV x b) ∨ t = { s with mode := .waitKey x } := by
  simp only [exec, execLdVxK] at h
  split at h <;> cases h
  · exact .inl ⟨_, rfl⟩
  · exact .inr rfl

/-! The registers (R21, R22) -/

theorem getV_setV_of_ne {x r : Reg} (b : Byte) (hr : r ≠ x) : (s.setV x b).getV r = s.getV r :=
  (setV_getV s x b r).trans (if_neg hr.symm)

theorem getV_skipIf (b : Bool) (r : Reg) : (s.skipIf b).getV r = s.getV r := by
  rw [skipIf_eq, setPc_getV]

/-- R21: a register not listed for the instruction keeps its value. -/
theorem exec_getV_of_not_writesReg (h : exec i s = .next t) {r : Reg} (hr : ¬ WritesReg i r) :
    t.getV r = s.getV r := by
  cases i
  case ret => obtain rfl | ⟨a, rfl⟩ := exec_ret_cases h <;> rfl
  case call => obtain rfl | rfl := exec_call_cases h <;> rfl
  case ldVxK =>
    obtain ⟨b, rfl⟩ | rfl := exec_ldVxK_cases h
    · exact getV_setV_of_ne b hr
    · rfl
  case seImm | sneImm | seReg | sneReg | skp | sknp => cases h; exact getV_skipIf _ r
  case ldImm | addImm | ldReg | orReg | andReg | xorReg | rnd | ldVxDt => cases h; exact getV_setV_of_ne _ hr
  case addReg | subReg | shr | subnReg | shl =>
    obtain ⟨hx, hF⟩ := not_or.1 hr
    cases h; rw [setResultThenFlag_getV, if_neg hF, if_neg hx]
  case drw x y n =>
    cases h; exact getV_setV_of_ne (s := { s with fb := (s.drawn x y n).1 }) _ hr
  case loadRegs x =>
    cases h; exact (loadRange_getV ..).trans (if_neg (mt (mem_regsUpTo x r).1 hr))
  all_goals cases h; rfl

/-- R22: an instruction that writes `VF` as a flag writes a flag byte. -/
theorem exec_getV_regF_of_writesFlag (h : exec i s = .next t) (hf : WritesFlag i) :
    ∃ f, t.getV regF = flagByte f := by
  cases i
  case addReg | subReg | shr | subnReg | shl =>
    cases h; exact ⟨_, (setResultThenFlag_getV ..).trans (if_pos rfl)⟩
  case drw => cases h; exact ⟨_, (setV_getV ..).trans (if_pos rfl)⟩
  all_goals exact hf.elim

theorem flagByte_toNat_le_one (f : Bool) : (flagByte f).toNat ≤ 1 := by
  rw [flagByte_toNat]; split <;> decide

/-- Settles O55: both halves are said of `exec`, one arm after another. -/
theorem onlyListedRegistersWritten : Obligations.OnlyListedRegistersWritten := by
  unfold Obligations.OnlyListedRegistersWritten
  intro i s t h
  refine ⟨fun r hr => exec_getV_of_not_writesReg h hr, fun hf => ?_⟩
  obtain ⟨f, hVF⟩ := exec_getV_regF_of_writesFlag h hf
  rw [hVF]
  exact flagByte_toNat_le_one f

/-- Settles O56: an arm's updates leave the parts the arm is not named for as they are, which is what the laws of each
update say; the arms that branch are taken apart first. -/
theorem onlyNamedInstructionsWrite : Obligations.OnlyNamedInstructionsWrite := by
  unfold Obligations.OnlyNamedInstructionsWrite
  intro i s t h
  cases i
  case ret => obtain rfl | ⟨a, rfl⟩ := exec_ret_cases h <;> simp
  case call => obtain rfl | rfl := exec_call_cases h <;> simp
  case ldVxK => obtain ⟨b, rfl⟩ | rfl := exec_ldVxK_cases h <;> simp
  case loadRegs => cases h; rw [loadRange_eq]; simp
  case seImm | sneImm | seReg | sneReg | skp | sknp => cases h; rw [skipIf_eq]; simp
  case addReg | subReg | shr | subnReg | shl => cases h; rw [setResultThenFlag_eq]; simp
  all_goals cases h; simp

end Sys2Proof.Machine
end

section
/-! What holds of every step: the invariant, and when the pulses rise. -/

open Sys2Proof.Claims

namespace Sys2Proof.Machine

variable {c : Params} {s t : State}

/-! The state after reset -/

/-- R39, R58: main memory after reset is the font, and zero above it. -/
theorem resetIn_memRead (hfont : c.font.length = 80) {a : Nat} (ha : a < 4096) :
    (State.resetIn c).memRead a = c.font.getD a 0 := by
  have hwf : Memory.wf [] := ⟨List.Pairwise.nil, by simp⟩
  have hread : (State.resetIn c).memRead a = if a < 80 then c.font.getD a 0 else Memory.default a := by
    have hzero : wrapAddr (a + 4096 - wrapAddr 0) = a := by simp only [wrapAddr]; omega
    refine (Memory.read_writeBytes c.font [] 0 a hwf (by omega)).trans ?_
    rw [hzero, hfont, Memory.read, Memory.wrapAddr_of_lt ha, Memory.lookup]
  rw [hread]
  split
  · rfl
  · have habove : 80 ≤ a := by omega
    exact (List.getD_eq_default Config.hw.font 0 habove).trans (List.getD_eq_default _ _ (hfont ▸ habove)).symm

/-- R39: the state after reset on a machine with any admitted configuration. -/
theorem resetIn_resetValues (hc : c.wf = true) : ResetValues c (State.resetIn c) := by
  obtain ⟨-, hfont⟩ : (1 ≤ c.cpf ∧ 1 ≤ c.stackDepth) ∧ c.font.length = 80 := by simpa [Params.wf] using hc
  exact {
    v := fun r => Vector.getElem_replicate r.isLt
    i := rfl
    pc := rfl
    stack := rfl
    timers := ⟨rfl, rfl⟩
    mode := rfl
    phase := rfl
    cyc := rfl
    fatal := ⟨rfl, rfl, rfl⟩
    latches := ⟨rfl, rfl, rfl⟩
    font := fun a ha => resetIn_memRead hfont (by omega)
    zero := fun a h80 ha => (resetIn_memRead hfont ha).trans (List.getD_eq_default _ _ (by omega))
    cells := fun k _ => BitVec.getLsbD_zero }

/-- Settles O47: this hardware's configuration is admitted (R8). -/
theorem resetStateValues : Obligations.ResetStateValues := by
  unfold Obligations.ResetStateValues
  have h := resetIn_resetValues (c := Config.hw) rfl
  rwa [resetIn_hw] at h

/-- R39: reset meets the invariant, whatever the configuration. -/
theorem resetIn_invIn (c : Params) : InvIn c (State.resetIn c) where
  memory := resetIn_wf c
  stack := Nat.zero_le _
  cyc := Nat.zero_le _
  fatal := ⟨fun h => absurd rfl h, fun h => by cases h⟩
  code := (by decide : (0 : BitVec 2) ≠ 3)
  waiting := fun _ h => by cases h
  idle := fun _ => ⟨rfl, rfl⟩
  window := fun _ => rfl

/-- Settles O49: the case of this hardware. -/
theorem resetMeetsInvariant : Obligations.ResetMeetsInvariant := by
  unfold Obligations.ResetMeetsInvariant
  rw [← resetIn_hw]
  exact resetIn_invIn Config.hw

/-! The invariant and the operations every step is made of -/

/-- The invariant speaks neither of the pulses nor of the environment. -/
theorem InvIn.clearPulses (h : InvIn c s) : InvIn c s.clearPulses :=
  ⟨h.memory, h.stack, h.cyc, h.fatal, h.code, h.waiting, h.idle, h.window⟩

theorem InvIn.passTime (h : InvIn c s) : InvIn c s.passTime :=
  ⟨h.memory, h.stack, h.cyc, h.fatal, h.code, h.waiting, h.idle, h.window⟩

/-- The invariant asks of memory only the canonical form. -/
theorem InvIn.withMem (h : InvIn c s) {m : Memory} (hm : m.wf) : InvIn c { s with mem := m } :=
  ⟨hm, h.stack, h.cyc, h.fatal, h.code, h.waiting, h.idle, h.window⟩

theorem InvIn.applyLoad (h : InvIn c s) (p : Inputs) : InvIn c (s.applyLoad p) := by
  have hwf := applyLoad_wf s p h.memory
  rw [applyLoad_eq] at hwf ⊢
  exact h.withMem hwf

theorem InvIn.serveLoad (h : InvIn c s) (p : Inputs) : InvIn c (s.serveLoad p) := by
  have hwf := serveLoad_wf s p h.memory
  rw [serveLoad_eq] at hwf ⊢
  exact h.withMem hwf

/-- R32: outside HALTED there is no code. -/
theorem InvIn.fatal_eq_zero (h : InvIn c s) (hp : s.phase ≠ .halted) : s.fatal = 0 := by
  by_contra hf
  exact hp (h.fatal.1 hf)

/-- R236: inside a burst the load port's window is closed. -/
theorem InvIn.loadOpen_eq_false (h : InvIn c s) (hp : s.phase ≠ .idle) : s.loadOpen = false := by
  by_contra ho
  exact hp (h.window (by simpa using ho))

/-- What the invariant says of a state in a burst. -/
theorem InvIn.of_burst (hp : t.phase = .burst) (hmem : t.mem.wf) (hstack : t.stack.length ≤ c.stackDepth)
    (hcyc : t.cyc ≤ c.cpf) (hfatal : t.fatal = 0) (hwait : ∀ x, t.mode = .waitKey x → t.cyc < c.cpf)
    (hopen : t.loadOpen = false) : InvIn c t where
  memory := hmem
  stack := hstack
  cyc := hcyc
  fatal := by simp [hfatal, hp]
  code := by simp [hfatal]
  waiting := fun x hx => ⟨hp, hwait x hx⟩
  idle := fun h => by simp [hp] at h
  window := fun h => by simp [hopen] at h

/-! The steps of R222 -/

/-- R250: a step under reset. -/
theorem takeReset_invIn (c : Params) (s : State) (p : Inputs) : InvIn c (State.takeReset c s p) := by
  have h := resetIn_invIn c
  have henv : InvIn c { State.resetIn c with env := s.env, clock := s.clock } :=
    ⟨h.memory, h.stack, h.cyc, h.fatal, h.code, h.waiting, h.idle, h.window⟩
  exact henv.applyLoad p

/-- R223: a step in IDLE, which a tick turns into the start of a burst. -/
theorem InvIn.idleStep (h : InvIn c s) (hp : s.phase = .idle) (p : Inputs) : InvIn c (s.idleStep p) := by
  have hl := h.serveLoad p
  have hphase : (s.serveLoad p).phase = .idle := by rw [serveLoad_eq]; exact hp
  obtain ⟨-, hmode⟩ := hl.idle hphase
  have hfatal := hl.fatal_eq_zero (by simp [hphase])
  unfold State.idleStep
  split
  · exact .of_burst rfl hl.memory hl.stack (Nat.zero_le _) hfatal (fun x hx => by simp [hmode] at hx) rfl
  · exact hl

/-- R224: the frame-end step, in which no key wait can be pending. -/
theorem InvIn.frameEnd (h : InvIn c s) (hp : s.phase = .burst) (hcyc : s.cyc = c.cpf) : InvIn c s.frameEnd := by
  have hmode : s.mode = .run := by
    cases hm : s.mode with
    | run => rfl
    | waitKey x => exact absurd hcyc (Nat.ne_of_lt (h.waiting x hm).2)
  have hfatal : s.fatal = 0 := h.fatal_eq_zero (by simp [hp])
  exact {
    memory := h.memory
    stack := h.stack
    cyc := Nat.zero_le _
    fatal := by simp [hfatal]
    code := h.code
    waiting := fun x hx => by simp [hmode] at hx
    idle := fun _ => ⟨rfl, hmode⟩
    window := fun _ => rfl }

/-- R193: a poll, which has a slot left to count. -/
theorem InvIn.pollStep (h : InvIn c s) (hp : s.phase = .burst) (hcyc : s.cyc < c.cpf) (x : Reg) :
    InvIn c (s.pollStep x) := by
  obtain ⟨-, hs⟩ | ⟨k, -, hs⟩ := pollStep_cases s x
  · rwa [hs]
  · rw [hs]
    exact .of_burst hp h.memory h.stack hcyc (h.fatal_eq_zero (by simp [hp])) (fun _ hx => by cases hx)
      (h.loadOpen_eq_false (by simp [hp]))

/-- R221: the end of the instruction step, after an execute phase that keeps the invariant with a slot left. -/
theorem InvIn.countCompleted (h : InvIn c s) (hcyc : s.cyc < c.cpf) (hidle : s.phase ≠ .idle) :
    InvIn c s.countCompleted := by
  unfold State.countCompleted
  split
  · rename_i hdone
    obtain ⟨-, hmode⟩ := hdone
    exact ⟨h.memory, h.stack, hcyc, h.fatal, h.code, fun x hx => by simp [hmode] at hx, fun hp => absurd hp hidle,
      h.window⟩
  · exact h

/-- R27, R213: no instruction leaves more than `STACK_DEPTH` entries. -/
theorem execIn_stack_le {i : Instr} (h : execIn c i s = .next t) (hs : s.stack.length ≤ c.stackDepth) :
    t.stack.length ≤ c.stackDepth := by
  obtain ⟨-, hstack | hstack | ⟨hroom, hstack⟩⟩ := execIn_mem_stack h <;> rw [hstack]
  · exact hs
  · rw [List.length_dropLast]; omega
  · rw [List.length_append, List.length_singleton]; omega

/-- R221: the execute phase of any instruction, with a slot left. -/
theorem InvIn.of_execIn {i : Instr} (h : InvIn c s) (hp : s.phase = .burst) (hcyc : s.cyc < c.cpf)
    (hm : s.mode = .run) (he : execIn c i s = .next t) : InvIn c t ∧ t.cyc < c.cpf ∧ t.phase ≠ .idle := by
  obtain ⟨htcyc, -, -, -, -, -, hopen, -, -⟩ := execIn_keeps he
  have hmem := (execIn_mem_stack he).1 h.memory
  have hstack := execIn_stack_le he h.stack
  have hsfatal := h.fatal_eq_zero (by simp [hp])
  have hclosed : t.loadOpen = false := hopen.trans (h.loadOpen_eq_false (by simp [hp]))
  rw [← htcyc] at hcyc
  obtain ⟨hphase, -, hfatal⟩ | ⟨hphase, hmode, hfatal⟩ | ⟨x, -, hphase, -, hfatal⟩ := execIn_phase_mode he
  case inr.inl =>
    have hcode : t.fatal ≠ 0 ∧ t.fatal ≠ 3 := by obtain hf | hf := hfatal <;> rw [hf] <;> decide
    refine ⟨⟨hmem, hstack, hcyc.le, ⟨fun _ => hphase, fun _ => hcode.1⟩, hcode.2, ?_, ?_, ?_⟩, hcyc,
      by simp [hphase]⟩
    · simp [hmode, hm]
    · simp [hphase]
    · simp [hclosed]
  all_goals
    rw [hp] at hphase
    exact ⟨.of_burst hphase hmem hstack hcyc.le (hfatal.trans hsfatal) (fun _ _ => hcyc) hclosed, hcyc,
      by simp [hphase]⟩

/-- R222: every step keeps the invariant, on a machine with any configuration. -/
theorem InvIn.of_cycle (h : InvIn c s) (hs : cycle c s = .next t) : InvIn c t := by
  have hfetched : InvIn c s.fetched :=
    ⟨h.memory, h.stack, h.cyc, h.fatal, h.code, h.waiting, h.idle, h.window⟩
  cases cycle_cases hs with
  | reset => exact (takeReset_invIn c s s.inputs).passTime
  | halted => exact h.clearPulses.passTime
  | idle _ hp => exact (h.clearPulses.idleStep hp s.inputs).passTime
  | frameEnd _ hp hcyc => exact (h.clearPulses.frameEnd hp hcyc).passTime
  | instr _ hp hcyc hm i _ u hu =>
    obtain ⟨hinv, hucyc, hidle⟩ := hfetched.of_execIn hp hcyc hm hu
    exact (hinv.countCompleted hucyc hidle).passTime
  | unrecognized _ hp hcyc _ op =>
    have hdiag : InvIn c (s.fetched.raiseDiagnostic op) :=
      ⟨h.memory, h.stack, h.cyc, h.fatal, h.code, h.waiting, h.idle, h.window⟩
    have hidle : s.phase ≠ .idle := by simp [hp]
    exact (hdiag.countCompleted hcyc hidle).passTime
  | poll _ hp hcyc x => exact (h.clearPulses.pollStep hp hcyc x).passTime

/-- Settles O48: this hardware's step is the step of its configuration. -/
theorem stepKeepsInvariant : Obligations.StepKeepsInvariant := by
  unfold Obligations.StepKeepsInvariant
  exact ⟨fun _ _ => InvIn.of_cycle, fun _ _ _ => InvIn.of_cycle⟩

/-! The pulses (R37) -/

/-- R84: an unrecognised word is reported as it was fetched. -/
theorem eq_of_decodeWord_unrecognized {w op : Word} (h : decodeWord w = .unrecognized op) : op = w := by
  unfold decodeWord at h
  split at h <;> cases h
  rfl

/-- R39: after a step under reset both pulses are low. -/
theorem takeReset_noPulse (c : Params) (s : State) (p : Inputs) : NoPulse (State.takeReset c s p) := by
  rw [State.takeReset, applyLoad_eq]
  exact ⟨rfl, rfl⟩

/-- R223: a step in IDLE raises neither pulse. -/
theorem idleStep_noPulse (h : NoPulse s) (p : Inputs) : NoPulse (s.idleStep p) := by
  rw [State.idleStep, serveLoad_eq]
  split <;> exact h

/-- R193: nor does a poll. -/
theorem pollStep_noPulse (h : NoPulse s) (x : Reg) : NoPulse (s.pollStep x) := by
  obtain ⟨-, hs⟩ | ⟨k, -, hs⟩ := pollStep_cases s x <;> rw [hs] <;> exact h

/-- R221: nor does the execute phase, whatever the instruction. -/
theorem execIn_noPulse {i : Instr} (h : NoPulse s) (he : execIn c i s = .next t) : NoPulse t := by
  obtain ⟨-, -, hdiag, -, -, hdone, -, -, -⟩ := execIn_keeps he
  exact ⟨hdiag.trans h.1, hdone.trans h.2⟩

/-- R221: nor does the end of the instruction step. -/
theorem countCompleted_noPulse (h : NoPulse s) : NoPulse s.countCompleted := by
  rw [countCompleted_eq]; exact h

/-- R37: both pulses are low at the start of every step without reset. -/
theorem clearPulses_noPulse (s : State) : NoPulse s.clearPulses := ⟨rfl, rfl⟩

/-- Settles O60: the pulses are low after every step but a frame end, which raises the one, and the step of an
unrecognised word, which raises the other. -/
theorem pulsesOnlyInTheirSteps : Obligations.PulsesOnlyInTheirSteps := by
  unfold Obligations.PulsesOnlyInTheirSteps
  intro s t h
  have low (hlow : NoPulse t) (hend : ¬ (s.inputs.reset = false ∧ s.phase = .burst ∧ s.cyc = Config.hw.cpf))
      (hword : ¬ (Executing s ∧ decodeWord (nextWord s) = .unrecognized (nextWord s))) :
      (t.frameDone = true ↔ s.inputs.reset = false ∧ s.phase = .burst ∧ s.cyc = Config.hw.cpf) ∧
        (t.diagValid = true ↔ Executing s ∧ decodeWord (nextWord s) = .unrecognized (nextWord s)) :=
    ⟨iff_of_false (by simp [hlow.2]) hend, iff_of_false (by simp [hlow.1]) hword⟩
  cases step_cases h with
  | reset hr =>
    exact low (takeReset_noPulse Config.hw s s.inputs) (fun hend => by simp [hr] at hend)
      fun ⟨hexec, _⟩ => by simpa [hr] using hexec.noReset
  | halted _ hp =>
    exact low (clearPulses_noPulse s) (fun hend => by simp [hp] at hend)
      fun ⟨hexec, _⟩ => by simpa [hp] using hexec.burst
  | idle _ hp =>
    exact low (idleStep_noPulse (clearPulses_noPulse s) s.inputs) (fun hend => by simp [hp] at hend)
      fun ⟨hexec, _⟩ => by simpa [hp] using hexec.burst
  | frameEnd hr hp hcyc =>
    exact ⟨iff_of_true rfl ⟨hr, hp, hcyc⟩, iff_of_false (by simp) fun ⟨hexec, _⟩ => hexec.slot.ne hcyc⟩
  | instr _ _ hcyc _ i hd u hu =>
    have hfetched : NoPulse s.fetched := clearPulses_noPulse s
    refine low (countCompleted_noPulse (execIn_noPulse hfetched hu)) (fun ⟨_, _, hend⟩ => hcyc.ne hend)
      fun ⟨_, hword⟩ => ?_
    cases hd.symm.trans hword
  | unrecognized hr hp hcyc hm op hd =>
    rw [countCompleted_eq]
    rw [eq_of_decodeWord_unrecognized hd] at hd
    exact ⟨iff_of_false Bool.false_ne_true fun ⟨_, _, hend⟩ => hcyc.ne hend,
      iff_of_true rfl ⟨⟨hr, hp, hcyc, hm⟩, hd⟩⟩
  | poll _ _ hcyc x hm =>
    exact low (pollStep_noPulse (clearPulses_noPulse s) x) (fun ⟨_, _, hend⟩ => hcyc.ne hend)
      fun ⟨hexec, _⟩ => by simpa [hm] using hexec.run

end Sys2Proof.Machine
end

section
/-! The family 20_memory.md: what the canonical form determines, who reads the inputs, and the fetch. -/

namespace Sys2Proof.Machine

/-! The canonical form (R35, R58) -/

/-- A listed cell is what its address reads as. -/
theorem Memory.lookup_eq_of_mem {m : Memory} (h : m.Pairwise (fun c d => c.1 < d.1)) {c : Host.Cell} (hc : c ∈ m) :
    m.lookup c.1 = c.2 := by
  induction m with
  | nil => simp at hc
  | cons d rest ih =>
    obtain ⟨hrise, hrest⟩ := List.pairwise_cons.1 h
    obtain rfl | hc := List.mem_cons.1 hc
    · exact if_pos rfl
    · exact (if_neg (hrise c hc).ne').trans (ih hrest hc)

/-- An address that does not read as its default is listed. -/
theorem Memory.mem_of_lookup_ne_default {m : Memory} {a : Nat} (h : m.lookup a ≠ Memory.default a) :
    (a, m.lookup a) ∈ m := by
  induction m with
  | nil => exact absurd rfl h
  | cons d rest ih =>
    obtain ⟨b, w⟩ := d
    by_cases hab : a = b
    · simp [Memory.lookup, hab]
    · simp only [Memory.lookup, if_neg hab] at h ⊢
      exact List.mem_cons_of_mem _ (ih h)

/-- A canonical memory lists exactly the cells below 4096 that do not read as their default. -/
theorem Memory.mem_iff_read {m : Memory} (h : m.wf) (c : Host.Cell) :
    c ∈ m ↔ c.1 < 4096 ∧ c.2 ≠ Memory.default c.1 ∧ m.read c.1 = c.2 := by
  obtain ⟨hrise, hcells⟩ := h
  constructor
  · intro hc
    obtain ⟨ha, hv⟩ := hcells c hc
    refine ⟨ha, hv, ?_⟩
    rw [Memory.read, Memory.wrapAddr_of_lt ha]
    exact Memory.lookup_eq_of_mem hrise hc
  · rintro ⟨ha, hv, hread⟩
    rw [Memory.read, Memory.wrapAddr_of_lt ha] at hread
    rw [← hread] at hv
    have hlisted := Memory.mem_of_lookup_ne_default hv
    rwa [hread] at hlisted

/-- Settles O8: what the two memories read as fixes which cells they list, and both list them by rising address. -/
theorem canonicalMemoryIsUnique : Obligations.CanonicalMemoryIsUnique := by
  unfold Obligations.CanonicalMemoryIsUnique
  intro m m' h h' hread
  have hmem (c : Host.Cell) : c ∈ m ↔ c ∈ m' := by
    rw [Memory.mem_iff_read h, Memory.mem_iff_read h']
    exact and_congr_right fun hc => by rw [hread c.1 hc]
  have hirrefl : Std.Irrefl fun c d : Host.Cell => c.1 < d.1 := ⟨fun c => Nat.lt_irrefl c.1⟩
  have hasymm : Std.Antisymm fun c d : Host.Cell => c.1 < d.1 := ⟨fun _ _ hcd hdc => absurd hcd hdc.not_gt⟩
  exact h.1.eq_of_mem_iff h'.1 hmem

/-! Inputs (R61) -/

/-- Settles O57: the case of this hardware, with the premise on the samples empty. -/
theorem onlyNamedInstructionsReadInputs : Obligations.OnlyNamedInstructionsReadInputs := by
  unfold Obligations.OnlyNamedInstructionsReadInputs
  intro i s e n hi
  have h := execIn_inEnvironment Config.hw i s e n fun hreads => absurd hreads hi
  simp only [execIn_hw] at h
  exact h

/-! The fetch -/

/-- R53: the value of the fetched word. -/
theorem fetch16_toNat (m : Memory) (a : Nat) :
    (fetch16 m a).toNat = (m.read a).toNat * 256 + (m.read (a + 1)).toNat := by
  rw [fetch16, BitVec.toNat_append, ← Nat.shiftLeft_add_eq_or_of_lt (m.read (a + 1)).isLt, Nat.shiftLeft_eq]

/-- Settles O6: a read depends on the wrapped address alone. -/
theorem fetchIsBigEndian : Obligations.FetchIsBigEndian := by
  unfold Obligations.FetchIsBigEndian
  intro m a
  rw [fetch16_toNat, ← Memory.read_wrapAddr m a, ← Memory.read_wrapAddr m (a + 1)]
  rfl

/-- R52, R156: the byte after element `k` of the data is element `k + 1`, across the wrap too. -/
theorem read_dataAddr_add_one (m : Memory) (base : Addr) (k : Nat) :
    m.read (dataAddr base k + 1) = m.read (dataAddr base (k + 1)) := by
  have hwrap : wrapAddr (dataAddr base k + 1) = dataAddr base (k + 1) := by
    simp only [dataAddr, wrapAddr]; omega
  rw [← Memory.read_wrapAddr, hwrap]

/-- R154: after Fx55, memory holds each register of the range at its address. -/
theorem storeRange_regsUpTo_read (s : State) (h : s.mem.wf) {x q : Reg} (hq : q ≤ x) :
    (storeRange s (regsUpTo x) s.mem).read (dataAddr s.i q.val) = s.getV q :=
  storeRange_read_stored s (regsUpTo x) s.mem q h (regsUpTo_nodup x) ((mem_regsUpTo x q).2 hq)

/-- Settles O7: both halves of the fetched word are bytes that Fx55 stored. -/
theorem storeSeenByNextFetch : Obligations.StoreSeenByNextFetch := by
  unfold Obligations.StoreSeenByNextFetch
  intro s x k hk hwf
  refine ⟨_, rfl, ?_⟩
  have hhigh := storeRange_regsUpTo_read s hwf (q := ⟨k, by omega⟩) hk.le
  have hlow := storeRange_regsUpTo_read s hwf (q := ⟨k + 1, by omega⟩) hk
  rw [fetch16, read_dataAddr_add_one, hhigh, hlow]

end Sys2Proof.Machine
end

section
/-! The family 30_encoding.md: the decoder and the encoder are inverse to each other, and which words no row takes. -/

namespace Sys2Proof

/-! Decoding the word of an instruction: one rule for each format of R77. `make` is the constructor that the row's
`build` applies to the fields. -/

/-- R79: a word that has the fixed bits of a row decodes to what the row makes of its fields. -/
theorem decodeWord_of_row {op mask bits : Word} {build : Fields → Instr} {i : Instr}
    (hr : ⟨mask, bits, build⟩ ∈ rows) (hm : op &&& mask = bits) (hi : build (fieldsOf op) = i) :
    decodeWord op = .instr i := by
  rw [decodeWord_of_matches hr (beq_iff_eq.2 hm)]
  exact congrArg Decoded.instr hi

theorem decodeWord_formatA {t : BitVec 4} (make : Addr → Instr)
    (hr : ⟨0xF000, t ++ (0 : BitVec 12), fun f => make f.nnn⟩ ∈ rows) (nnn : Addr) :
    decodeWord (formatA t nnn) = .instr (make nnn) :=
  decodeWord_of_row hr (formatA_fixed t nnn) (congrArg make (formatA_nnn t nnn))

theorem decodeWord_formatI {t : BitVec 4} (make : Reg → Byte → Instr)
    (hr : ⟨0xF000, t ++ (0 : BitVec 12), fun f => make f.x f.kk⟩ ∈ rows) (x : Reg) (kk : Byte) :
    decodeWord (formatI t x kk) = .instr (make x kk) := by
  obtain ⟨hx, hkk⟩ := formatI_fields t x kk
  exact decodeWord_of_row hr (formatI_fixed t x kk) (congrArg₂ make hx hkk)

theorem decodeWord_formatD {t : BitVec 4} (make : Reg → Reg → BitVec 4 → Instr)
    (hr : ⟨0xF000, t ++ (0 : BitVec 12), fun f => make f.x f.y f.n⟩ ∈ rows) (x y : Reg) (n : BitVec 4) :
    decodeWord (formatR t x y n) = .instr (make x y n) := by
  obtain ⟨hx, hy, hn⟩ := formatR_fields t x y n
  exact decodeWord_of_row hr (formatD_fixed t x y n) (by simp only [hx, hy, hn])

theorem decodeWord_formatR {t sub : BitVec 4} (make : Reg → Reg → Instr)
    (hr : ⟨0xF00F, t ++ ((0 : BitVec 4) ++ ((0 : BitVec 4) ++ sub)), fun f => make f.x f.y⟩ ∈ rows) (x y : Reg) :
    decodeWord (formatR t x y sub) = .instr (make x y) := by
  obtain ⟨hx, hy, -⟩ := formatR_fields t x y sub
  exact decodeWord_of_row hr (formatR_fixed t x y sub) (congrArg₂ make hx hy)

theorem decodeWord_formatX {t : BitVec 4} {fn : Byte} (make : Reg → Instr)
    (hr : ⟨0xF0FF, t ++ ((0 : BitVec 4) ++ fn), fun f => make f.x⟩ ∈ rows) (x : Reg) :
    decodeWord (formatX t x fn) = .instr (make x) :=
  decodeWord_of_row hr (formatX_fixed t x fn) (congrArg make (formatX_x t x fn))

/-- Settles O1: each instruction by the rule of its format; what remains is that its row is in the opcode map. -/
theorem decodeOfEncode : Obligations.DecodeOfEncode := by
  unfold Obligations.DecodeOfEncode
  intro i
  cases i with
  | cls => decide
  | ret => decide
  | jp nnn => exact decodeWord_formatA .jp (by simp [rows, rowsZA]) nnn
  | call nnn => exact decodeWord_formatA .call (by simp [rows, rowsZA]) nnn
  | ldI nnn => exact decodeWord_formatA .ldI (by simp [rows, rowsZA]) nnn
  | jpV0 nnn => exact decodeWord_formatA .jpV0 (by simp [rows, rowsZA]) nnn
  | seImm x kk => exact decodeWord_formatI .seImm (by simp [rows, rowsID]) x kk
  | sneImm x kk => exact decodeWord_formatI .sneImm (by simp [rows, rowsID]) x kk
  | ldImm x kk => exact decodeWord_formatI .ldImm (by simp [rows, rowsID]) x kk
  | addImm x kk => exact decodeWord_formatI .addImm (by simp [rows, rowsID]) x kk
  | rnd x kk => exact decodeWord_formatI .rnd (by simp [rows, rowsID]) x kk
  | drw x y n => exact decodeWord_formatD .drw (by simp [rows, rowsID]) x y n
  | seReg x y => exact decodeWord_formatR .seReg (by simp [rows, rowsR]) x y
  | ldReg x y => exact decodeWord_formatR .ldReg (by simp [rows, rowsR]) x y
  | orReg x y => exact decodeWord_formatR .orReg (by simp [rows, rowsR]) x y
  | andReg x y => exact decodeWord_formatR .andReg (by simp [rows, rowsR]) x y
  | xorReg x y => exact decodeWord_formatR .xorReg (by simp [rows, rowsR]) x y
  | addReg x y => exact decodeWord_formatR .addReg (by simp [rows, rowsR]) x y
  | subReg x y => exact decodeWord_formatR .subReg (by simp [rows, rowsR]) x y
  | shr x y => exact decodeWord_formatR .shr (by simp [rows, rowsR]) x y
  | subnReg x y => exact decodeWord_formatR .subnReg (by simp [rows, rowsR]) x y
  | shl x y => exact decodeWord_formatR .shl (by simp [rows, rowsR]) x y
  | sneReg x y => exact decodeWord_formatR .sneReg (by simp [rows, rowsR]) x y
  | skp x => exact decodeWord_formatX .skp (by simp [rows, rowsX]) x
  | sknp x => exact decodeWord_formatX .sknp (by simp [rows, rowsX]) x
  | ldVxDt x => exact decodeWord_formatX .ldVxDt (by simp [rows, rowsX]) x
  | ldVxK x => exact decodeWord_formatX .ldVxK (by simp [rows, rowsX]) x
  | ldDtVx x => exact decodeWord_formatX .ldDtVx (by simp [rows, rowsX]) x
  | ldStVx x => exact decodeWord_formatX .ldStVx (by simp [rows, rowsX]) x
  | addI x => exact decodeWord_formatX .addI (by simp [rows, rowsX]) x
  | ldF x => exact decodeWord_formatX .ldF (by simp [rows, rowsX]) x
  | ldB x => exact decodeWord_formatX .ldB (by simp [rows, rowsX]) x
  | storeRegs x => exact decodeWord_formatX .storeRegs (by simp [rows, rowsX]) x
  | loadRegs x => exact decodeWord_formatX .loadRegs (by simp [rows, rowsX]) x

/-- Settles O5: the twelve words are the words of their instructions, and 5121 has the fixed bits of no row. -/
theorem sampleWordsDecode : Obligations.SampleWordsDecode := by
  unfold Obligations.SampleWordsDecode
  refine ⟨decodeOfEncode .cls, decodeOfEncode .ret, decodeOfEncode (.jp 0xABC), decodeOfEncode (.seImm 0xA 0x42),
    decodeOfEncode (.sneReg 1 2), decodeOfEncode (.subnReg 1 2), decodeOfEncode (.shl 1 2),
    decodeOfEncode (.rnd 1 0x0F), decodeOfEncode (.drw 1 2 0xF), decodeOfEncode (.skp 3), decodeOfEncode (.ldB 4),
    decodeOfEncode (.loadRegs 2), decodeWord_of_no_match ?_⟩
  decide

/-- Settles O4: two rows that both match would differ on a bit that both fix. -/
theorem noWordMatchesTwoRows : Obligations.NoWordMatchesTwoRows := by
  unfold Obligations.NoWordMatchesTwoRows
  intro op
  have hdiffer := rows_exclusive.filter (·.matches op)
  have hmatch : ∀ r ∈ rows.filter (·.matches op), r.matches op = true := fun r hr => (List.mem_filter.1 hr).2
  match h : rows.filter (·.matches op) with
  | [] => simp [h]
  | [r] => simp [h]
  | a :: b :: l =>
    rw [h] at hdiffer hmatch
    have hab := (List.pairwise_cons.1 hdiffer).1 b List.mem_cons_self
    have hb := Row.not_matches_of_differ hab (hmatch a List.mem_cons_self)
    simp [hmatch b] at hb

/-! A word is made of its digits (R76), and a mask keeps some of them (R80) -/

/-- R76: the primary opcode, `t = op[15:12]`. -/
def topDigit (op : Word) : BitVec 4 := op.extractLsb' 12 4

theorem formatA_of_fields (op : Word) : formatA (topDigit op) (fieldsOf op).nnn = op := by
  have h : topDigit op ++ (fieldsOf op).nnn = op.extractLsb' 0 16 :=
    BitVec.extractLsb'_append_extractLsb'_eq_extractLsb' rfl
  exact h.trans BitVec.extractLsb'_eq_self

theorem append_fields_x_kk (op : Word) : regBits (fieldsOf op).x ++ (fieldsOf op).kk = (fieldsOf op).nnn :=
  BitVec.extractLsb'_append_extractLsb'_eq_extractLsb' rfl

theorem append_fields_y_n (op : Word) : regBits (fieldsOf op).y ++ (fieldsOf op).n = (fieldsOf op).kk :=
  BitVec.extractLsb'_append_extractLsb'_eq_extractLsb' rfl

theorem formatI_of_fields (op : Word) : formatI (topDigit op) (fieldsOf op).x (fieldsOf op).kk = op := by
  rw [formatI, append_fields_x_kk]
  exact formatA_of_fields op

theorem formatR_of_fields (op : Word) :
    formatR (topDigit op) (fieldsOf op).x (fieldsOf op).y (fieldsOf op).n = op := by
  rw [formatR, append_fields_y_n]
  exact formatI_of_fields op

theorem formatX_of_fields (op : Word) : formatX (topDigit op) (fieldsOf op).x (fieldsOf op).kk = op :=
  formatI_of_fields op

theorem and_F000 (op : Word) : op &&& 0xF000 = topDigit op ++ (0 : BitVec 12) := by
  conv_lhs => rw [← formatA_of_fields op, formatA_fixed]

theorem and_F00F (op : Word) :
    op &&& 0xF00F = topDigit op ++ ((0 : BitVec 4) ++ ((0 : BitVec 4) ++ (fieldsOf op).n)) := by
  conv_lhs => rw [← formatR_of_fields op, formatR_fixed]

theorem and_F0FF (op : Word) : op &&& 0xF0FF = topDigit op ++ ((0 : BitVec 4) ++ (fieldsOf op).kk) := by
  conv_lhs => rw [← formatX_of_fields op, formatX_fixed]

theorem and_FFFF (op : Word) : op &&& 0xFFFF = op := BitVec.and_allOnes

/-- Words put together from parts of equal widths are equal when the parts are. -/
theorem append_eq_append_iff {v w : Nat} {a b : BitVec v} {c d : BitVec w} :
    a ++ c = b ++ d ↔ a = b ∧ c = d := by
  refine ⟨fun h => ?_, fun ⟨hab, hcd⟩ => by rw [hab, hcd]⟩
  obtain rfl : a = b := by simpa only [BitVec.extractLsb'_append_eq_left] using congrArg (BitVec.extractLsb' w v) h
  exact ⟨rfl, (BitVec.append_right_inj a).1 h⟩

/-! The fixed bits of a format, read off a word -/

theorem and_F000_eq_iff {op : Word} {t : BitVec 4} : op &&& 0xF000 = t ++ (0 : BitVec 12) ↔ topDigit op = t := by
  rw [and_F000, BitVec.append_left_inj]

theorem and_F00F_eq_iff {op : Word} {t sub : BitVec 4} :
    op &&& 0xF00F = t ++ ((0 : BitVec 4) ++ ((0 : BitVec 4) ++ sub)) ↔ topDigit op = t ∧ (fieldsOf op).n = sub := by
  rw [and_F00F, append_eq_append_iff, BitVec.append_right_inj, BitVec.append_right_inj]

theorem and_F0FF_eq_iff {op : Word} {t : BitVec 4} {fn : Byte} :
    op &&& 0xF0FF = t ++ ((0 : BitVec 4) ++ fn) ↔ topDigit op = t ∧ (fieldsOf op).kk = fn := by
  rw [and_F0FF, append_eq_append_iff, BitVec.append_right_inj]

theorem formatA_of_fixed {op : Word} {t : BitVec 4} (h : op &&& 0xF000 = t ++ (0 : BitVec 12)) :
    formatA t (fieldsOf op).nnn = op := by
  rw [← and_F000_eq_iff.1 h, formatA_of_fields]

theorem formatI_of_fixed {op : Word} {t : BitVec 4} (h : op &&& 0xF000 = t ++ (0 : BitVec 12)) :
    formatI t (fieldsOf op).x (fieldsOf op).kk = op := by
  rw [← and_F000_eq_iff.1 h, formatI_of_fields]

theorem formatD_of_fixed {op : Word} {t : BitVec 4} (h : op &&& 0xF000 = t ++ (0 : BitVec 12)) :
    formatR t (fieldsOf op).x (fieldsOf op).y (fieldsOf op).n = op := by
  rw [← and_F000_eq_iff.1 h, formatR_of_fields]

theorem formatR_of_fixed {op : Word} {t sub : BitVec 4}
    (h : op &&& 0xF00F = t ++ ((0 : BitVec 4) ++ ((0 : BitVec 4) ++ sub))) :
    formatR t (fieldsOf op).x (fieldsOf op).y sub = op := by
  obtain ⟨rfl, rfl⟩ := and_F00F_eq_iff.1 h
  exact formatR_of_fields op

theorem formatX_of_fixed {op : Word} {t : BitVec 4} {fn : Byte}
    (h : op &&& 0xF0FF = t ++ ((0 : BitVec 4) ++ fn)) : formatX t (fieldsOf op).x fn = op := by
  obtain ⟨rfl, rfl⟩ := and_F0FF_eq_iff.1 h
  exact formatX_of_fields op

/-! Encoding what a word decodes to -/

theorem mem_rows {r : Row} : r ∈ rows ↔ r ∈ rowsZA ∨ r ∈ rowsID ∨ r ∈ rowsR ∨ r ∈ rowsX := by
  simp only [rows, List.mem_append, or_assoc]

/-- R76, R80: a word that matches a row is the word of the instruction the row makes of its fields. `CLS` and `RET`
(the first two of the first list) fix the whole word, and `DRW` (the sixth of the second) has format D. -/
theorem encode_build_of_matches {r : Row} (hr : r ∈ rows) {op : Word} (hm : r.matches op = true) :
    encode (r.build (fieldsOf op)) = op := by
  have hfixed := beq_iff_eq.1 hm
  obtain hr | hr | hr | hr := mem_rows.1 hr
  · fin_cases hr
    · exact hfixed.symm.trans (and_FFFF op)
    · exact hfixed.symm.trans (and_FFFF op)
    all_goals exact formatA_of_fixed hfixed
  · fin_cases hr
    on_goal 6 => exact formatD_of_fixed hfixed
    all_goals exact formatI_of_fixed hfixed
  · fin_cases hr <;> exact formatR_of_fixed hfixed
  · fin_cases hr <;> exact formatX_of_fixed hfixed

/-- R81: the unrecognised words are those that match no row. -/
theorem decodeWord_eq_unrecognized_iff (op : Word) :
    decodeWord op = .unrecognized op ↔ ∀ r ∈ rows, ¬ r.matches op = true := by
  constructor
  · intro h r hr hm
    cases h.symm.trans (decodeWord_of_matches hr hm)
  · exact fun h => decodeWord_of_no_match fun r hr => Bool.eq_false_of_not_eq_true (h r hr)

/-- R79: an instruction is decoded from a row that the word matches. -/
theorem exists_row_of_decodeWord {op : Word} {i : Instr} (h : decodeWord op = .instr i) :
    ∃ r ∈ rows, r.matches op = true ∧ r.build (fieldsOf op) = i := by
  by_cases hm : ∃ r ∈ rows, r.matches op = true
  · obtain ⟨r, hr, hm⟩ := hm
    exact ⟨r, hr, hm, Decoded.instr.inj ((decodeWord_of_matches hr hm).symm.trans h)⟩
  · cases h.symm.trans ((decodeWord_eq_unrecognized_iff op).2 fun r hr h => hm ⟨r, hr, h⟩)

/-- Settles O2: the word matches the row that made the instruction, so encoding the row's instruction gives it back. -/
theorem encodeOfDecode : Obligations.EncodeOfDecode := by
  unfold Obligations.EncodeOfDecode
  intro op i h
  obtain ⟨r, hr, hm, rfl⟩ := exists_row_of_decodeWord h
  exact encode_build_of_matches hr hm

/-! Which words no row takes, in the numbers of R81: the top digit is `op / 4096`, `N` is `op % 16` and `NN` is
`op % 256`. -/

theorem toNat_topDigit (op : Word) : (topDigit op).toNat = op.toNat / 4096 := by
  simp only [topDigit, BitVec.extractLsb'_toNat, Nat.shiftRight_eq_div_pow]
  omega

theorem toNat_fields_kk (op : Word) : (fieldsOf op).kk.toNat = op.toNat % 256 := BitVec.extractLsb'_toNat ..

theorem toNat_fields_n (op : Word) : (fieldsOf op).n.toNat = op.toNat % 16 := BitVec.extractLsb'_toNat ..

section
variable {op bits : Word} {build : Fields → Instr}

theorem matches_F000_iff (hb : bits &&& 0xF000 = bits) :
    Row.matches ⟨0xF000, bits, build⟩ op = true ↔ op.toNat / 4096 = bits.toNat / 4096 := by
  rw [← toNat_topDigit, ← toNat_topDigit, BitVec.toNat_inj, ← and_F000_eq_iff, ← and_F000, hb]
  exact beq_iff_eq

theorem matches_F00F_iff (hb : bits &&& 0xF00F = bits) :
    Row.matches ⟨0xF00F, bits, build⟩ op = true ↔
      op.toNat / 4096 = bits.toNat / 4096 ∧ op.toNat % 16 = bits.toNat % 16 := by
  rw [← toNat_topDigit, ← toNat_topDigit, ← toNat_fields_n, ← toNat_fields_n, BitVec.toNat_inj,
    BitVec.toNat_inj, ← and_F00F_eq_iff, ← and_F00F, hb]
  exact beq_iff_eq

theorem matches_F0FF_iff (hb : bits &&& 0xF0FF = bits) :
    Row.matches ⟨0xF0FF, bits, build⟩ op = true ↔
      op.toNat / 4096 = bits.toNat / 4096 ∧ op.toNat % 256 = bits.toNat % 256 := by
  rw [← toNat_topDigit, ← toNat_topDigit, ← toNat_fields_kk, ← toNat_fields_kk, BitVec.toNat_inj,
    BitVec.toNat_inj, ← and_F0FF_eq_iff, ← and_F0FF, hb]
  exact beq_iff_eq

/-- The top digit is named here too, so that the rows of every mask are sorted by it. -/
theorem matches_FFFF_iff :
    Row.matches ⟨0xFFFF, bits, build⟩ op = true ↔ op.toNat / 4096 = bits.toNat / 4096 ∧ op = bits := by
  rw [Row.matches, and_FFFF, beq_iff_eq, iff_and_self]
  rintro rfl
  rfl

end

theorem matches_no_rowsZA_iff (op : Word) : (∀ r ∈ rowsZA, ¬ r.matches op = true) ↔
    (op.toNat / 4096 = 0 → op ≠ 0x00E0 ∧ op ≠ 0x00EE) ∧ op.toNat / 4096 ∉ [1, 2, 10, 11] := by
  simp (disch := decide) only [rowsZA, List.forall_mem_cons, matches_FFFF_iff, matches_F000_iff, not_and]
  simp [imp_and, and_assoc]

theorem matches_no_rowsID_iff (op : Word) : (∀ r ∈ rowsID, ¬ r.matches op = true) ↔
    op.toNat / 4096 ∉ [3, 4, 6, 7, 12, 13] := by
  simp (disch := decide) only [rowsID, List.forall_mem_cons, matches_F000_iff]
  simp

theorem matches_no_rowsR_iff (op : Word) : (∀ r ∈ rowsR, ¬ r.matches op = true) ↔
    (op.toNat / 4096 = 5 → op.toNat % 16 ≠ 0) ∧
    (op.toNat / 4096 = 8 → op.toNat % 16 ∉ [0, 1, 2, 3, 4, 5, 6, 7, 14]) ∧
    (op.toNat / 4096 = 9 → op.toNat % 16 ≠ 0) := by
  simp (disch := decide) only [rowsR, List.forall_mem_cons, matches_F00F_iff, not_and]
  simp [imp_and, and_assoc]

theorem matches_no_rowsX_iff (op : Word) : (∀ r ∈ rowsX, ¬ r.matches op = true) ↔
    (op.toNat / 4096 = 14 → op.toNat % 256 ∉ [0x9E, 0xA1]) ∧
    (op.toNat / 4096 = 15 → op.toNat % 256 ∉ [0x07, 0x0A, 0x15, 0x18, 0x1E, 0x29, 0x33, 0x55, 0x65]) := by
  simp (disch := decide) only [rowsX, List.forall_mem_cons, matches_F0FF_iff, not_and]
  simp [imp_and, and_assoc]

/-- R82: the sub-opcodes of class (c) are the digits that no row `8xyN` has. -/
theorem mem_unusedSubopcodes_iff :
    ∀ n < 16, n ∈ [8, 9, 10, 11, 12, 13, 15] ↔ n ∉ [0, 1, 2, 3, 4, 5, 6, 7, 14] := by
  decide

/-- Settles O3: a word is unrecognised when no row of the four lists takes it; at each of the sixteen top digits this
leaves that digit's class of R81, or nothing. -/
theorem unrecognizedWordClasses : Obligations.UnrecognizedWordClasses := by
  unfold Obligations.UnrecognizedWordClasses
  intro op
  have hsub := mem_unusedSubopcodes_iff (op.toNat % 16) (by omega)
  simp only [decodeWord_eq_unrecognized_iff, mem_rows, or_imp, forall_and, matches_no_rowsZA_iff,
    matches_no_rowsID_iff, matches_no_rowsR_iff, matches_no_rowsX_iff, hsub]
  have hdigit : op.toNat / 4096 < 16 := by omega
  generalize op.toNat / 4096 = t at hdigit
  interval_cases t <;> simp

end Sys2Proof
end

section
/-! The family 40_flow.md: the call stack, the jumps and the skips. -/

open Sys2Proof.Claims

namespace Sys2Proof.Machine

/-! The frames of the two stack operations (R28) -/

theorem push_same (s : State) (a : Addr) : SameExcept (· = .stack) s (s.push a) := by
  intro p hp; cases p <;> simp_all [Part.same]

theorem dropTop_same (s : State) : SameExcept (· = .stack) s s.dropTop := by
  intro p hp; cases p <;> simp_all [Part.same]

/-- A stack operation and then a jump change the stack and `PC`. -/
theorem setPc_same_of_stack {s t : State} (h : SameExcept (· = .stack) s t) (a : Addr) :
    SameExcept (fun p => p = .pc ∨ p = .stack) s (t.setPc a) :=
  sameExcept_trans (sameExcept_mono h fun _ => .inr) (sameExcept_mono (setPc_same t a) fun _ => .inl)

/-! RET (R101), one equation for each branch -/

theorem exec_ret_of_stack_eq_append {s : State} {stk : List Addr} {a : Addr} (h : s.stack = stk ++ [a]) :
    exec .ret s = .next (s.dropTop.setPc a) := by
  have htop : s.top = some a := by rw [State.top, h, List.getLast?_concat]
  simp only [exec, execRet, htop]

theorem exec_ret_of_stack_eq_nil {s : State} (h : s.stack = []) :
    exec .ret s = .next (s.raiseFatal codeUnderflow 0) := by
  have htop : s.top = none := by rw [State.top, h, List.getLast?_nil]
  simp only [exec, execRet, htop]

/-- Popping leaves what was below the top. -/
theorem dropTop_stack_of_eq_append {s : State} {stk : List Addr} {a : Addr} (h : s.stack = stk ++ [a]) :
    s.dropTop.stack = stk := by
  rw [dropTop_stack, h, List.dropLast_concat]

/-- Settles O9: each branch by its equation. -/
theorem retPopsIntoPc : Obligations.RetPopsIntoPc := by
  unfold Obligations.RetPopsIntoPc
  constructor
  · intro s stk a h
    exact ⟨_, exec_ret_of_stack_eq_append h, rfl, dropTop_stack_of_eq_append h,
      setPc_same_of_stack (dropTop_same s) a⟩
  · intro s h
    exact ⟨_, exec_ret_of_stack_eq_nil h, rfl, rfl, raiseFatal_same s codeUnderflow 0⟩

/-! CALL (R103), one equation for each branch, on a machine with any `STACK_DEPTH` (R8) -/

theorem callIn_of_room {c : Params} {s : State} (h : s.stack.length ≠ c.stackDepth) (nnn : Addr) :
    callIn c nnn s = .next ((s.push s.pc).setPc nnn) :=
  congrArg Host.Outcome.next (if_neg h)

theorem callIn_of_full {c : Params} {s : State} (h : s.stack.length = c.stackDepth) (nnn : Addr) :
    callIn c nnn s = .next (s.raiseFatal codeOverflow nnn) :=
  congrArg Host.Outcome.next (if_pos h)

theorem execIn_call_pushes {c : Params} {s : State} (h : s.stack.length ≠ c.stackDepth) (nnn : Addr) :
    ∃ t, execIn c (.call nnn) s = .next t ∧ t.stack = s.stack ++ [s.pc] ∧ t.pc = nnn ∧
      SameExcept (fun p => p = .pc ∨ p = .stack) s t :=
  ⟨_, callIn_of_room h nnn, rfl, rfl, setPc_same_of_stack (push_same s s.pc) nnn⟩

theorem execIn_call_overflows {c : Params} {s : State} (h : s.stack.length = c.stackDepth) (nnn : Addr) :
    ∃ t, execIn c (.call nnn) s = .next t ∧ t.fatal = 2 ∧ t.fatalInfo = nnn ∧ t.phase = .halted ∧
      SameExcept FatalPart s t :=
  ⟨_, callIn_of_full h nnn, rfl, rfl, rfl, raiseFatal_same s codeOverflow nnn⟩

/-- Settles O11: what holds for every `STACK_DEPTH` holds for this hardware's. -/
theorem callPushesPc : Obligations.CallPushesPc := by
  unfold Obligations.CallPushesPc
  simp only [← execIn_hw]
  exact ⟨fun nnn s h => execIn_call_pushes h nnn, fun nnn s h => execIn_call_overflows h nnn,
    fun c nnn s => ⟨fun h => execIn_call_pushes h nnn, fun h => execIn_call_overflows h nnn⟩⟩

/-! The jumps (R102, R108) -/

/-- Settles O10: both jumps are one write of `PC`, and the sum of R108 is reduced to its 12 bits. -/
theorem jumpsSetPc : Obligations.JumpsSetPc := by
  unfold Obligations.JumpsSetPc
  constructor
  · intro nnn s
    exact ⟨_, rfl, rfl, setPc_same s nnn⟩
  · intro nnn s
    exact ⟨_, rfl, BitVec.toNat_ofNat _ 12, setPc_same s _⟩

/-! The skips (R100): `PC` after one, by its condition -/

theorem skipIf_pc_toNat (s : State) (b : Bool) :
    (s.skipIf b).pc.toNat = if b then (s.pc.toNat + 2) % 4096 else s.pc.toNat := by
  rw [skipIf_eq, setPc_pc]
  cases b
  · rfl
  · exact BitVec.toNat_add s.pc 2

theorem skipIf_beq_pc_toNat (s : State) (a b : Byte) :
    (s.skipIf (a == b)).pc.toNat = if a.toNat = b.toNat then (s.pc.toNat + 2) % 4096 else s.pc.toNat := by
  simp only [skipIf_pc_toNat, beq_iff_eq, BitVec.toNat_inj]

theorem skipIf_bne_pc_toNat (s : State) (a b : Byte) :
    (s.skipIf (a != b)).pc.toNat = if a.toNat = b.toNat then s.pc.toNat else (s.pc.toNat + 2) % 4096 := by
  simp only [skipIf_pc_toNat, bne_iff_ne, BitVec.toNat_inj, ne_eq, ite_not]

/-- Settles O13: the condition is equality for SE and its negation for SNE. -/
theorem skipOnImmediate : Obligations.SkipOnImmediate := by
  unfold Obligations.SkipOnImmediate
  constructor
  · intro x kk s
    exact ⟨_, rfl, skipIf_beq_pc_toNat s _ _, skipIf_same s _⟩
  · intro x kk s
    exact ⟨_, rfl, skipIf_bne_pc_toNat s _ _, skipIf_same s _⟩

/-- Settles O14: as for the immediates, with the second register in the place of `kk`. -/
theorem skipOnRegisters : Obligations.SkipOnRegisters := by
  unfold Obligations.SkipOnRegisters
  constructor
  · intro x y s
    exact ⟨_, rfl, skipIf_beq_pc_toNat s _ _, skipIf_same s _⟩
  · intro x y s
    exact ⟨_, rfl, skipIf_bne_pc_toNat s _ _, skipIf_same s _⟩

/-! A call and a return as whole steps (R221) -/

/-- R221: the step of an instruction that was fetched, from the answer of its execute phase. -/
theorem step_of_executing {s t : State} {i : Instr} (h : Executing s) (hd : decodeWord (nextWord s) = .instr i)
    (he : exec i s.fetched = .next t) : step s = .next t.countCompleted.passTime := by
  obtain ⟨hreset, hburst, hslot, hrun⟩ := h
  rw [nextWord] at hd
  rw [step_of_burst hreset hburst, burstStep, if_neg hslot.ne, if_neg hslot.not_gt, hrun]
  simp only [instructionStep, hd, execIn_hw, he, afterExec]

@[simp] theorem countCompleted_pc (s : State) : s.countCompleted.pc = s.pc := by rw [countCompleted_eq]
@[simp] theorem countCompleted_stack (s : State) : s.countCompleted.stack = s.stack := by rw [countCompleted_eq]

/-- R103 as a step: the address pushed is that of the instruction after the call. -/
theorem step_call {s : State} {nnn : Addr} (h : Executing s) (hw : nextWord s = encode (.call nnn))
    (hroom : s.stack.length ≠ Config.hw.stackDepth) :
    ∃ t, step s = .next t ∧ t.pc = nnn ∧ t.stack = s.stack ++ [s.pc + 2] := by
  have hd : decodeWord (nextWord s) = .instr (.call nnn) := by rw [hw]; exact decodeOfEncode (.call nnn)
  refine ⟨_, step_of_executing h hd (callIn_of_room (s := s.fetched) hroom nnn), ?_, ?_⟩
  · simp
  · simp only [passTime_stack, countCompleted_stack]
    rfl

/-- R101 as a step. -/
theorem step_ret {s : State} {stk : List Addr} {a : Addr} (h : Executing s) (hw : nextWord s = 0x00EE)
    (hstack : s.stack = stk ++ [a]) : ∃ t, step s = .next t ∧ t.pc = a ∧ t.stack = stk := by
  have hd : decodeWord (nextWord s) = .instr .ret := by rw [hw]; exact decodeOfEncode .ret
  have hfetched : s.fetched.stack = stk ++ [a] := hstack
  refine ⟨_, step_of_executing h hd (exec_ret_of_stack_eq_append hfetched), ?_, ?_⟩
  · simp
  · simp only [passTime_stack, countCompleted_stack, setPc_stack, dropTop_stack_of_eq_append hfetched]

/-- Settles O12: the return finds on top the address that the call pushed. -/
theorem callThenReturn : Obligations.CallThenReturn := by
  unfold Obligations.CallThenReturn
  intro s nnn h hw hroom
  obtain ⟨t, hstep, hpc, hstack⟩ := step_call h hw hroom
  exact ⟨t, hstep, hpc, fun ht hret => step_ret ht hret hstack⟩

end Sys2Proof.Machine
end

section
/-! The family 41_alu.md: loads, arithmetic, logic, shifts and the random byte. -/

open Sys2Proof.Claims

namespace Sys2Proof.Machine

/-! One write of a register: the instructions without a flag (R120, R121, R123 to R126, R132) -/

theorem getV_setV_self (s : State) (x : Reg) (b : Byte) : (s.setV x b).getV x = b :=
  (setV_getV s x b x).trans (if_pos rfl)

/-- Settles O15: the byte written is what the register then reads as. -/
theorem registerLoads : Obligations.RegisterLoads := by
  unfold Obligations.RegisterLoads
  constructor
  · intro x kk s
    exact ⟨_, rfl, getV_setV_self s x kk, setV_same s x kk⟩
  · intro x y s
    exact ⟨_, rfl, getV_setV_self s x _, setV_same s x _⟩

/-- Settles O16: the sum is reduced to its 8 bits. -/
theorem addImmediateWraps : Obligations.AddImmediateWraps := by
  unfold Obligations.AddImmediateWraps
  intro x kk s
  refine ⟨_, rfl, ?_, setV_same s x _⟩
  rw [getV_setV_self, BitVec.toNat_add]

/-- Settles O17: each operation acts on each bit alone. -/
theorem bitwiseOperations : Obligations.BitwiseOperations := by
  unfold Obligations.BitwiseOperations
  refine ⟨?_, ?_, ?_⟩
  · intro x y s
    refine ⟨_, rfl, fun j => ?_, setV_same s x _⟩
    rw [getV_setV_self, BitVec.getLsbD_or]
  · intro x y s
    refine ⟨_, rfl, fun j => ?_, setV_same s x _⟩
    rw [getV_setV_self, BitVec.getLsbD_and]
  · intro x y s
    refine ⟨_, rfl, fun j => ?_, setV_same s x _⟩
    rw [getV_setV_self, BitVec.getLsbD_xor]

/-- Settles O21: the mask acts on each bit of the sample alone. -/
theorem randomIsMasked : Obligations.RandomIsMasked := by
  unfold Obligations.RandomIsMasked
  intro x kk s
  refine ⟨_, rfl, fun j => ?_, setV_same s x _⟩
  rw [getV_setV_self, BitVec.getLsbD_and, State.randByte]

/-! A result and then the flag (R23, R122): what each of the two registers reads as afterwards -/

/-- The result is lost when `x = 0xF`, and the flag never is. -/
theorem setResultThenFlag_reads (s : State) (x : Reg) {r : Byte} {f : Bool} {result flag : Nat}
    (hflag : (flagByte f).toNat = flag) (hresult : r.toNat = result) :
    ((s.setResultThenFlag x r f).getV regF).toNat = flag ∧
      (x ≠ regF → ((s.setResultThenFlag x r f).getV x).toNat = result) ∧
      SameExcept (ResultOrFlag x) s (s.setResultThenFlag x r f) := by
  refine ⟨?_, fun hx => ?_, setResultThenFlag_same s x r f⟩
  · rw [setResultThenFlag_getV, if_pos rfl, hflag]
  · rw [setResultThenFlag_getV, if_neg hx, if_pos rfl, hresult]

/-! The flags as numbers -/

theorem flagByte_carryFlag_toNat (a b : Byte) :
    (flagByte (carryFlag a b)).toNat = if a.toNat + b.toNat > 255 then 1 else 0 := by
  simp only [flagByte_toNat, carryFlag, decide_eq_true_eq]

theorem flagByte_greaterFlag_toNat (a b : Byte) :
    (flagByte (greaterFlag a b)).toNat = if a.toNat > b.toNat then 1 else 0 := by
  simp only [flagByte_toNat, greaterFlag, decide_eq_true_eq]

/-- A flag that copies a bit is that bit's digit of the number. -/
theorem flagByte_getLsbD_toNat (a : Byte) (j : Nat) : (flagByte (a.getLsbD j)).toNat = a.toNat / 2 ^ j % 2 := by
  rw [flagByte_toNat, BitVec.getLsbD, ← Nat.toNat_testBit, Bool.toNat, Bool.cond_eq_ite]

theorem flagByte_lowBitFlag_toNat (a : Byte) : (flagByte (lowBitFlag a)).toNat = a.toNat % 2 := by
  rw [lowBitFlag, flagByte_getLsbD_toNat, pow_zero, Nat.div_one]

theorem flagByte_highBitFlag_toNat (a : Byte) : (flagByte (highBitFlag a)).toNat = a.toNat / 128 := by
  have hdigit : a.toNat / 128 < 2 := by omega
  exact (flagByte_getLsbD_toNat a 7).trans (Nat.mod_eq_of_lt hdigit)

/-! The results as numbers -/

theorem sub_toNat_byte (a b : Byte) : (a - b).toNat = (a.toNat + 256 - b.toNat) % 256 := by
  rw [BitVec.toNat_sub]
  omega

theorem ushiftRight_one_toNat (a : Byte) : (a >>> 1).toNat = a.toNat / 2 := by
  rw [BitVec.toNat_ushiftRight, Nat.shiftRight_one]

theorem shiftLeft_one_toNat (a : Byte) : (a <<< 1).toNat = a.toNat * 2 % 256 := by
  rw [BitVec.toNat_shiftLeft, Nat.shiftLeft_eq, pow_one]

/-- Settles O18: the carry is of the sum before it is reduced. -/
theorem addRegisterCarry : Obligations.AddRegisterCarry := by
  unfold Obligations.AddRegisterCarry
  intro x y s
  exact ⟨_, rfl, setResultThenFlag_reads s x (flagByte_carryFlag_toNat _ _) (BitVec.toNat_add _ _)⟩

/-- Settles O19: SUBN is SUB with the operands exchanged, in the result and in the flag. -/
theorem subtractsAndFlags : Obligations.SubtractsAndFlags := by
  unfold Obligations.SubtractsAndFlags
  constructor
  · intro x y s
    exact ⟨_, rfl, setResultThenFlag_reads s x (flagByte_greaterFlag_toNat _ _) (sub_toNat_byte _ _)⟩
  · intro x y s
    exact ⟨_, rfl, setResultThenFlag_reads s x (flagByte_greaterFlag_toNat _ _) (sub_toNat_byte _ _)⟩

/-- Settles O20: the flag is the digit that halving drops at the bottom or doubling drops at the top. -/
theorem shiftsIgnoreVy : Obligations.ShiftsIgnoreVy := by
  unfold Obligations.ShiftsIgnoreVy
  constructor
  · intro x y s
    exact ⟨_, rfl, setResultThenFlag_reads s x (flagByte_lowBitFlag_toNat _) (ushiftRight_one_toNat _)⟩
  · intro x y s
    exact ⟨_, rfl, setResultThenFlag_reads s x (flagByte_highBitFlag_toNat _) (shiftLeft_one_toNat _)⟩

end Sys2Proof.Machine
end

section
/-! The family 42_index_memory.md: the writes of `I`, and the transfers between registers and memory. -/

namespace Sys2Proof.Machine

/-! The index register -/

/-- Settles O22: the sum is reduced to 12 bits, and five times a byte needs no reduction. -/
theorem indexWrites : Obligations.IndexWrites := by
  unfold Obligations.IndexWrites
  refine ⟨?_, ?_, ?_⟩
  · intro nnn s
    exact ⟨_, rfl, rfl, setI_same s nnn⟩
  · intro x s
    exact ⟨_, rfl, BitVec.toNat_ofNat _ 12, setI_same s _⟩
  · intro x s
    have hfits : (s.getV x).toNat * 5 < 2 ^ 12 := by omega
    exact ⟨_, rfl, (BitVec.toNat_ofNat _ 12).trans (Nat.mod_eq_of_lt hfits), setI_same s _⟩

/-! Runs of stored bytes: a byte of the run, a byte outside it, and the frame -/

/-- R51: a run of writes leaves its bytes behind. -/
theorem Memory.read_writeBytes_stored {bs : List Byte} {m : Memory} {k : Nat} (a : Nat) (h : m.wf)
    (hlen : bs.length ≤ 4096) (hk : k < bs.length) : (m.writeBytes a bs).read (a + k) = bs[k] := by
  have hoffset : wrapAddr (a + k + 4096 - wrapAddr a) = k := by simp only [wrapAddr]; omega
  rw [Memory.read_writeBytes bs m a _ h hlen, hoffset, if_pos hk, List.getD_eq_getElem _ _ hk]

/-- R51: a run of writes leaves every byte outside it. -/
theorem Memory.read_writeBytes_other {bs : List Byte} {m : Memory} {a b : Nat} (h : m.wf) (hlen : bs.length ≤ 4096)
    (hb : ∀ k < bs.length, wrapAddr b ≠ wrapAddr (a + k)) : (m.writeBytes a bs).read b = m.read b := by
  rw [Memory.read_writeBytes bs m a b h hlen, if_neg]
  intro hk
  refine hb _ hk ?_
  simp only [wrapAddr]
  omega

/-- The frame of stores to memory, from what they leave of the bytes they do not name. -/
theorem withMem_same {s : State} {m : Memory} {addr : Nat → Nat} {n : Nat}
    (h : ∀ a < 4096, (∀ k < n, a ≠ addr k) → m.read a = s.mem.read a) :
    SameExcept (StoredByte addr n) s { s with mem := m } := by
  intro p hp
  cases p
  case byte a => exact fun ha => h a ha fun k hk hak => hp ⟨k, hk, congrArg Part.byte hak⟩
  case cell k => exact fun _ => rfl
  all_goals rfl

/-- R156: element `k` of a run of bytes stored from `base`. -/
theorem read_writeBytes_dataAddr {m : Memory} {bs : List Byte} {k : Nat} (base : Addr) (h : m.wf)
    (hlen : bs.length ≤ 4096) (hk : k < bs.length) : (m.writeBytes base.toNat bs).read (dataAddr base k) = bs[k] :=
  (Memory.read_wrapAddr _ _).trans (Memory.read_writeBytes_stored base.toNat h hlen hk)

/-- R156: a run of bytes stored from `base` changes the bytes of the run. -/
theorem writeBytes_same {s : State} {bs : List Byte} (base : Addr) (h : s.mem.wf) (hlen : bs.length ≤ 4096) :
    SameExcept (StoredByte (dataAddr base) bs.length) s { s with mem := s.mem.writeBytes base.toNat bs } :=
  withMem_same fun a ha hother => Memory.read_writeBytes_other h hlen fun k hk => by
    rw [Memory.wrapAddr_of_lt ha]
    exact hother k hk

/-! Fx33 -/

/-- R153: each digit fits its byte. -/
theorem bcdDigits_toNat (v : Byte) :
    (bcdDigits v).map BitVec.toNat = [v.toNat / 100, v.toNat / 10 % 10, v.toNat % 10] := by
  have hhundreds : v.toNat / 100 < 256 := by omega
  have htens : v.toNat / 10 % 10 < 256 := by omega
  have hones : v.toNat % 10 < 256 := by omega
  simp [bcdDigits, Nat.mod_eq_of_lt, hhundreds, htens, hones]

/-- Settles O23: the digits are one run of three bytes stored from `I`. -/
theorem bcdStoresDigits : Obligations.BcdStoresDigits := by
  unfold Obligations.BcdStoresDigits
  intro x s h
  have hlen : (bcdDigits (s.getV x)).length ≤ 4096 := by simp [bcdDigits]
  have hdigit (k : Nat) (hk : k < 3) :
      ((s.mem.writeBytes s.i.toNat (bcdDigits (s.getV x))).read (dataAddr s.i k)).toNat =
        [(s.getV x).toNat / 100, (s.getV x).toNat / 10 % 10, (s.getV x).toNat % 10][k] := by
    simp only [← bcdDigits_toNat, List.getElem_map]
    exact congrArg BitVec.toNat (read_writeBytes_dataAddr s.i h hlen hk)
  exact ⟨_, rfl, hdigit 0 (by decide), hdigit 1 (by decide), hdigit 2 (by decide), writeBytes_same s.i h hlen⟩

/-! Fx55 and Fx65 -/

/-- Settles O24: the addresses of the range are its register numbers from `I` on. -/
theorem storeRegistersRange : Obligations.StoreRegistersRange := by
  unfold Obligations.StoreRegistersRange
  intro x s h
  refine ⟨_, rfl, fun r hr => storeRange_regsUpTo_read s h hr, withMem_same fun a ha hother => ?_⟩
  refine storeRange_read_other s (regsUpTo x) s.mem a h fun r hr => ?_
  have hrx : r ≤ x := (mem_regsUpTo x r).1 hr
  rw [Memory.wrapAddr_of_lt ha]
  exact hother r.val (Nat.lt_succ_of_le hrx)

/-- R155: a range of loads changes the registers of the range. -/
theorem loadRange_same (s : State) (rs : List Reg) (t : State) :
    SameExcept (fun p => ∃ r, r ∈ rs ∧ p = .reg r) t (loadRange s rs t) := by
  induction rs generalizing t with
  | nil => exact sameExcept_refl _ t
  | cons r rs ih =>
    refine sameExcept_trans (sameExcept_mono (setV_same t r _) ?_) (sameExcept_mono (ih _) ?_)
    · exact fun p hp => ⟨r, List.mem_cons_self, hp⟩
    · exact fun p ⟨q, hq, hp⟩ => ⟨q, List.mem_cons_of_mem r hq, hp⟩

/-- Settles O25: every byte of the range is read from the memory the instruction found. -/
theorem loadRegistersRange : Obligations.LoadRegistersRange := by
  unfold Obligations.LoadRegistersRange
  simp only [← mem_regsUpTo]
  intro x s
  refine ⟨_, rfl, fun r hr => ?_, loadRange_same s (regsUpTo x) s⟩
  rw [loadRange_getV, if_pos hr]

/-- Settles O26: Fx65 reads the bytes where Fx55 stored them. -/
theorem storeThenLoadRestores : Obligations.StoreThenLoadRestores := by
  unfold Obligations.StoreThenLoadRestores
  intro x s h
  obtain ⟨t, hstore, hstored, -⟩ := storeRegistersRange x s h
  refine ⟨t, hstore, fun s' hmem hi => ?_⟩
  obtain ⟨u, hload, hloaded, -⟩ := loadRegistersRange x s'
  refine ⟨u, hload, fun r hr => ?_⟩
  rw [hloaded r hr, ← hstored r hr, State.memRead, State.memRead, hmem, hi]

end Sys2Proof.Machine
end

section
/-! The family 43_display.md: the cleared display, one toggled cell, and the sprites. -/

open Sys2Proof.Claims

namespace Sys2Proof.Machine

/-- The frame of an update of the framebuffer. -/
theorem withFb_same (s : State) (fb : FrameBuf) : SameExcept AnyCell s { s with fb := fb } := by
  intro p hp
  cases p
  case cell k => exact absurd ⟨k, rfl⟩ hp
  case byte a => exact fun _ => rfl
  all_goals rfl

/-- Settles O27: every cell of the number 0 is 0. -/
theorem clearDisplay : Obligations.ClearDisplay := by
  unfold Obligations.ClearDisplay
  intro s
  exact ⟨_, rfl, fun k _ => BitVec.getLsbD_zero, withFb_same s clearCells⟩

/-! One cell (R172) -/

/-- R172: a second flip of the same cell undoes the first, and finds the cell as the first left it. -/
theorem togglePixel_togglePixel (px py : Int) (fb : FrameBuf) :
    togglePixel px py (togglePixel px py fb).1 = (fb, !fb.getLsbD (cellIndex px py)) := by
  refine Prod.ext ?_ ?_
  · simp only [togglePixel, BitVec.xor_assoc, BitVec.xor_self, BitVec.xor_zero]
  · change (togglePixel px py fb).1.getLsbD (cellIndex px py) = _
    simp [togglePixel_getLsbD]

/-- Settles O28: the cell of the statement is `cellIndex px py`. -/
theorem togglePixelFlipsOneCell : Obligations.TogglePixelFlipsOneCell := by
  unfold Obligations.TogglePixelFlipsOneCell
  intro px py fb
  refine ⟨cellIndex_lt px py, rfl, fun j _ => ?_, togglePixel_togglePixel px py fb⟩
  change _ = if j = cellIndex px py then _ else _
  rw [togglePixel_getLsbD]
  by_cases h : j = cellIndex px py
  · simp [h]
  · simp [h, Ne.symm h]

/-! One sprite: the cells of its list are those its set bits cover (R174 to R176) -/

/-- R172: coordinates that are not negative. -/
theorem cellIndex_natCast (px py : Nat) : cellIndex px py = py % 32 * 64 + px % 64 := by
  unfold cellIndex
  omega

section
variable {s : State} {x y : Reg} {n : BitVec 4} {k : Nat}

theorem mem_spriteCells_iff_covers :
    k ∈ spriteCells (s.getV x).toNat (s.getV y).toNat n.toNat s.spriteRow ↔ Covers s x y n k := by
  simp only [mem_spriteCells, cellIndex_natCast, Covers, State.spriteRow, dataAddr, wrapAddr]
  constructor
  · rintro ⟨r, hr, c, hc, hbit, hk⟩
    exact ⟨r, c, hr, hc, hbit, hk.symm⟩
  · rintro ⟨r, c, hr, hc, hbit, hk⟩
    exact ⟨r, hr, c, hc, hbit, hk.symm⟩

theorem drawn_getLsbD_of_covers (h : Covers s x y n k) : (s.drawn x y n).1.getLsbD k = !s.fb.getLsbD k := by
  rw [State.drawn, (drawSprite_spec _ _ _ (by omega) _ _).1, decide_eq_true (mem_spriteCells_iff_covers.2 h),
    Bool.xor_true]

theorem drawn_getLsbD_of_not_covers (h : ¬ Covers s x y n k) : (s.drawn x y n).1.getLsbD k = s.fb.getLsbD k := by
  rw [State.drawn, (drawSprite_spec _ _ _ (by omega) _ _).1, decide_eq_false (mt mem_spriteCells_iff_covers.1 h),
    Bool.xor_false]

/-- R177: the collision is with a covered cell that was set. -/
theorem drawn_collides_iff : (s.drawn x y n).2 = true ↔ ∃ k, Covers s x y n k ∧ s.fb.getLsbD k = true := by
  rw [State.drawn, (drawSprite_spec _ _ _ (by omega) _ _).2, List.any_eq_true]
  simp only [mem_spriteCells_iff_covers]

/-- R174: the sprite, and where it is drawn, rest on the two coordinate registers, `I` and memory alone. -/
theorem covers_congr {t : State} (hx : t.getV x = s.getV x) (hy : t.getV y = s.getV y) (hi : t.i = s.i)
    (hmem : ∀ a < 4096, t.memRead a = s.memRead a) : Covers t x y n k ↔ Covers s x y n k := by
  have hrow (r : Nat) : t.memRead ((s.i.toNat + r) % 4096) = s.memRead ((s.i.toNat + r) % 4096) :=
    hmem _ (Nat.mod_lt _ (by decide))
  simp only [Covers, hx, hy, hi, hrow]

end

/-- R174: the frame of Dxyn. -/
theorem execDrw_same (s : State) (fb : FrameBuf) (b : Byte) :
    SameExcept (fun p => AnyCell p ∨ p = .reg regF) s (({ s with fb := fb } : State).setV regF b) :=
  sameExcept_trans (sameExcept_mono (withFb_same s fb) fun _ => .inl)
    (sameExcept_mono (setV_same _ regF b) fun _ => .inr)

/-- Settles O29: the sprite is the list of the cells it covers, and the flag is the collision with one of them. -/
theorem drawFlipsCoveredCells : Obligations.DrawFlipsCoveredCells := by
  unfold Obligations.DrawFlipsCoveredCells
  intro x y n s
  refine ⟨_, rfl, fun k _ => drawn_getLsbD_of_covers, fun k _ => drawn_getLsbD_of_not_covers, fun hset => ?_,
    fun hclear => ?_, execDrw_same s _ _⟩
  · rw [getV_setV_self, drawn_collides_iff.2 hset, flagByte, if_pos rfl]
  · have hnone : ¬ (s.drawn x y n).2 = true := by
      rw [drawn_collides_iff]
      rintro ⟨k, hk, hset⟩
      exact Bool.false_ne_true ((hclear k hk).symm.trans hset)
    rw [getV_setV_self, flagByte, if_neg hnone]

/-- Settles O30: the first draw leaves everything that says where the second one is, so each covered cell flips twice
and no other cell flips. -/
theorem drawTwiceRestores : Obligations.DrawTwiceRestores := by
  unfold Obligations.DrawTwiceRestores
  intro x y n s hx hy
  obtain ⟨t, hst, hflip, hkeep, -, -, hsame⟩ := drawFlipsCoveredCells x y n s
  obtain ⟨u, htu, hflip', hkeep', hset, hclear, -⟩ := drawFlipsCoveredCells x y n t
  have hcovers (k : Nat) : Covers t x y n k ↔ Covers s x y n k :=
    covers_congr (hsame (.reg x) (by simp [AnyCell, hx])) (hsame (.reg y) (by simp [AnyCell, hy]))
      (hsame .index (by simp [AnyCell])) fun a => hsame (.byte a) (by simp [AnyCell])
  simp only [hcovers] at hflip' hkeep' hset hclear
  refine ⟨t, u, hst, htu, ?_, fun hVF => ?_, hset⟩
  · refine BitVec.eq_of_getLsbD_eq fun k hk => ?_
    by_cases h : Covers s x y n k
    · rw [hflip' k hk h, hflip k hk h, Bool.not_not]
    · rw [hkeep' k hk h, hkeep k hk h]
  · by_contra hnone
    have hVF' : u.getV regF = 0 := hclear fun k hk => by
      by_contra hk1
      exact hnone ⟨k, hk, by simpa using hk1⟩
    exact absurd (hVF'.symm.trans hVF) (by decide)

end Sys2Proof.Machine
end

section
/-! The family 44_keypad_timers.md: the keypad's skips, the key wait and its poll, and the timers. -/

open Sys2Proof.Claims

namespace Sys2Proof.Machine

variable {s t : State}

/-! The frames of the updates of one field -/

theorem withDt_same (s : State) (b : Byte) : SameExcept (· = .dt) s { s with dt := b } := by
  intro p hp; cases p <;> simp_all [Part.same, State.getV, State.memRead]

theorem withSt_same (s : State) (b : Byte) : SameExcept (· = .st) s { s with st := b } := by
  intro p hp; cases p <;> simp_all [Part.same, State.getV, State.memRead]

theorem withMode_same (s : State) (m : Mode) : SameExcept (· = .mode) s { s with mode := m } := by
  intro p hp; cases p <;> simp_all [Part.same, State.getV, State.memRead]

theorem withCyc_same (s : State) (n : Nat) : SameExcept (· = .cyc) s { s with cyc := n } := by
  intro p hp; cases p <;> simp_all [Part.same, State.getV, State.memRead]

/-- The fall of the pulses (R37, log 5). -/
theorem clearPulses_same (s : State) : SameExcept (fun p => p = .diagValid ∨ p = .frameDone) s s.clearPulses := by
  intro p hp; cases p <;> simp_all [Part.same]

/-- The frame of a whole step without reset, from the frame of what it does between the fall of the pulses and the
passing of time. -/
theorem sameExcept_passTime_of_clearPulses {changed : Part → Prop} (hevery : ∀ p, EveryStep p → changed p)
    (h : SameExcept changed s.clearPulses t) : SameExcept changed s t.passTime := by
  have hpulses : SameExcept changed s s.clearPulses :=
    sameExcept_mono (clearPulses_same s) fun p hp => hevery p (hp.imp_right .inl)
  have htime : SameExcept changed t t.passTime :=
    sameExcept_mono (passTime_same t) fun p hp => hevery p (.inr (.inr hp))
  exact sameExcept_trans (sameExcept_trans hpulses h) htime

/-! The timers (R194 to R196) -/

/-- Settles O34: each instruction is one write, of the register or of the timer. -/
theorem timerTransfers : Obligations.TimerTransfers := by
  unfold Obligations.TimerTransfers
  refine ⟨?_, ?_, ?_⟩
  · intro x s
    exact ⟨_, rfl, getV_setV_self s x s.dt, setV_same s x s.dt⟩
  · intro x s
    exact ⟨_, rfl, rfl, withDt_same s (s.getV x)⟩
  · intro x s
    exact ⟨_, rfl, rfl, withSt_same s (s.getV x)⟩

/-! The skips (R190, R191) -/

theorem isKeyHeld_iff (s : State) (k : Byte) :
    s.isKeyHeld k = true ↔ k.toNat ≤ 15 ∧ s.inputs.keyHeld.getLsbD k.toNat = true := by
  rw [State.isKeyHeld, Bool.and_eq_true, decide_eq_true_eq]

theorem isKeyHeld_not_iff (s : State) (k : Byte) :
    (!s.isKeyHeld k) = true ↔ ¬ (k.toNat ≤ 15 ∧ s.inputs.keyHeld.getLsbD k.toNat = true) := by
  rw [Bool.not_eq_true', ← Bool.not_eq_true, isKeyHeld_iff]

/-- Settles O31: the condition is the held key for SKP and its negation for SKNP. -/
theorem skipOnKey : Obligations.SkipOnKey := by
  unfold Obligations.SkipOnKey
  constructor
  · intro x s
    refine ⟨_, rfl, ?_, skipIf_same s _⟩
    simp only [skipIf_pc_toNat, isKeyHeld_iff]
  · intro x s
    refine ⟨_, rfl, ?_, skipIf_same s _⟩
    simp only [skipIf_pc_toNat, isKeyHeld_not_iff, ite_not]

/-! The last key (R15, R192), and Fx0A with one and without, one equation for each branch -/

theorem keyByte_toNat (c : BitVec 4) : (keyByte c).toNat = c.toNat :=
  BitVec.toNat_setWidth_of_le (by decide)

theorem lastKey_of_valid (h : s.inputs.keyLastValid = true) : s.lastKey = some s.inputs.keyLast := if_pos h

theorem lastKey_of_not_valid (h : s.inputs.keyLastValid = false) : s.lastKey = none :=
  if_neg (Bool.eq_false_iff.1 h)

theorem exec_ldVxK_of_key (h : s.inputs.keyLastValid = true) (x : Reg) :
    exec (.ldVxK x) s = .next (s.setV x (keyByte s.inputs.keyLast)) := by
  simp only [exec, execLdVxK, lastKey_of_valid h]

theorem exec_ldVxK_of_no_key (h : s.inputs.keyLastValid = false) (x : Reg) :
    exec (.ldVxK x) s = .next { s with mode := .waitKey x } := by
  simp only [exec, execLdVxK, lastKey_of_not_valid h]

/-- R221: an instruction that starts a key wait is not counted yet. -/
theorem countCompleted_of_waitKey {x : Reg} (h : s.mode = .waitKey x) : s.countCompleted = s :=
  if_neg fun ⟨_, hrun⟩ => by cases h.symm.trans hrun

/-- R192 as a step: Fx0A with no key available. -/
theorem step_ldVxK_of_no_key {x : Reg} (h : Executing s) (hw : nextWord s = encode (.ldVxK x))
    (hkey : s.inputs.keyLastValid = false) :
    step s = .next ({ s.fetched with mode := .waitKey x } : State).passTime := by
  have hd : decodeWord (nextWord s) = .instr (.ldVxK x) := by rw [hw]; exact decodeOfEncode (.ldVxK x)
  rw [step_of_executing h hd (exec_ldVxK_of_no_key (s := s.fetched) hkey x), countCompleted_of_waitKey rfl]

/-- Settles O32: each branch by its equation; the step adds to it the frame of the fetch. -/
theorem keyCaptureOrWait : Obligations.KeyCaptureOrWait := by
  unfold Obligations.KeyCaptureOrWait
  refine ⟨?_, ?_, ?_⟩
  · intro x s hkey
    refine ⟨_, exec_ldVxK_of_key hkey x, ?_, setV_same s x _⟩
    rw [getV_setV_self, keyByte_toNat]
  · intro x s hkey
    exact ⟨_, exec_ldVxK_of_no_key hkey x, rfl, withMode_same s _⟩
  · intro x s h hw hkey
    refine ⟨_, step_ldVxK_of_no_key h hw hkey, rfl, rfl, ?_⟩
    refine sameExcept_passTime_of_clearPulses (fun _ hp => .inr (.inr hp)) ?_
    exact sameExcept_trans (sameExcept_mono (setPc_same s.clearPulses (s.pc + 2)) fun _ hp => .inr (.inl hp))
      (sameExcept_mono (withMode_same s.fetched (.waitKey x)) fun _ hp => .inl hp)

/-! The poll of a key wait (R193) -/

theorem pollStep_of_key (h : s.inputs.keyLastValid = true) (x : Reg) :
    s.pollStep x = { s.setV x (keyByte s.inputs.keyLast) with mode := .run, cyc := s.cyc + 1 } := by
  simp only [State.pollStep, lastKey_of_valid h]

theorem pollStep_of_no_key (h : s.inputs.keyLastValid = false) (x : Reg) : s.pollStep x = s := by
  simp only [State.pollStep, lastKey_of_not_valid h]

/-- The frame of a poll, with a key or without. -/
theorem pollStep_same (s : State) (x : Reg) :
    SameExcept (fun p => p = .reg x ∨ p = .mode ∨ p = .cyc) s (s.pollStep x) := by
  obtain ⟨-, hs⟩ | ⟨c, -, hs⟩ := pollStep_cases s x <;> rw [hs]
  · exact sameExcept_refl _ s
  · have hreg := setV_same s x (keyByte c)
    have hmode := withMode_same (s.setV x (keyByte c)) .run
    have hcyc := withCyc_same { s.setV x (keyByte c) with mode := .run } (s.cyc + 1)
    exact sameExcept_trans (sameExcept_mono hreg fun _ => .inl)
      (sameExcept_trans (sameExcept_mono hmode fun _ hp => .inr (.inl hp))
        (sameExcept_mono hcyc fun _ hp => .inr (.inr hp)))

/-- R222 (f): in a key wait with a slot left in the burst, the step is a poll. -/
theorem step_of_waitKey {x : Reg} (hr : s.inputs.reset = false) (hp : s.phase = .burst)
    (hslot : s.cyc < Config.hw.cpf) (hm : s.mode = .waitKey x) :
    step s = .next (s.clearPulses.pollStep x).passTime := by
  rw [step_of_burst hr hp, burstStep, if_neg hslot.ne, if_neg hslot.not_gt, hm]

/-- Settles O33: the step is the poll, and the poll sees the sample of the state before the step. -/
theorem keyWaitPoll : Obligations.KeyWaitPoll := by
  unfold Obligations.KeyWaitPoll
  intro s x hr hp hslot hm
  refine ⟨_, step_of_waitKey hr hp hslot hm, pollStep_noPulse (clearPulses_noPulse s) x, ?_, ?_⟩
  · intro hkey
    have hpoll := pollStep_of_key (s := s.clearPulses) hkey x
    refine ⟨?_, ?_, ?_, sameExcept_passTime_of_clearPulses (fun _ h => .inr (.inr (.inr h))) ?_⟩
    · rw [hpoll]
      exact (congrArg BitVec.toNat (getV_setV_self s.clearPulses x _)).trans (keyByte_toNat _)
    · rw [hpoll]; rfl
    · rw [hpoll]; rfl
    · exact sameExcept_mono (pollStep_same s.clearPulses x) fun _ => Or.imp_right (Or.imp_right .inl)
  · intro hkey
    rw [pollStep_of_no_key (s := s.clearPulses) hkey x]
    exact sameExcept_passTime_of_clearPulses (fun _ h => h) (sameExcept_refl EveryStep _)

end Sys2Proof.Machine
end

section
/-! The family 60_exceptions.md, step selection: which inputs a step looks at, and that every state of a run has one. -/

open Sys2Proof.Claims

namespace Sys2Proof.Machine

variable {s t : State} {p q : Inputs}

/-! Every state has a next step (R210, R222) -/

/-- Settles O41: every arm of `exec` answers a next state, on each of its branches. -/
theorem everyInstructionHasNextState : Obligations.EveryInstructionHasNextState := by
  unfold Obligations.EveryInstructionHasNextState
  intro i s
  cases i <;> exact ⟨_, rfl⟩

/-- R250: with reset asserted the step is the taking of reset, whatever the phase. -/
theorem step_of_reset (hr : s.inputs.reset = true) :
    step s = .next (State.takeReset Config.hw s s.inputs).passTime := by
  rw [step, cycle, if_pos hr]

/-- R222 (d): after `CPF` completed instructions the step is the frame-end step. -/
theorem step_of_frameEnd (hr : s.inputs.reset = false) (hp : s.phase = .burst) (hcyc : s.cyc = Config.hw.cpf) :
    step s = .next s.clearPulses.frameEnd.passTime := by
  rw [step_of_burst hr hp, burstStep, if_pos hcyc]

/-- R214: the step of a word that matches no row. -/
theorem step_of_unrecognized {op : Word} (h : Executing s) (hd : decodeWord (nextWord s) = .unrecognized op) :
    step s = .next (s.fetched.raiseDiagnostic op).countCompleted.passTime := by
  obtain ⟨hreset, hburst, hslot, hrun⟩ := h
  rw [nextWord] at hd
  rw [step_of_burst hreset hburst, burstStep, if_neg hslot.ne, if_neg hslot.not_gt, hrun]
  simp only [instructionStep, hd, afterExec]

/-- R221: an instruction step has a next state, whatever the word at `PC`. -/
theorem exists_step_of_executing (h : Executing s) : ∃ t, step s = .next t := by
  cases hd : decodeWord (nextWord s) with
  | instr i =>
    obtain ⟨t, ht⟩ := everyInstructionHasNextState i s.fetched
    exact ⟨_, step_of_executing h hd ht⟩
  | unrecognized op => exact ⟨_, step_of_unrecognized h hd⟩

/-- Settles O50: the invariant bounds `CYC`, so that a burst is in one of the cases (d), (e) and (f). -/
theorem stepNeverStuck : Obligations.StepNeverStuck := by
  unfold Obligations.StepNeverStuck
  intro s hinv
  cases hr : s.inputs.reset with
  | true => exact ⟨_, step_of_reset hr⟩
  | false =>
    cases hp : s.phase with
    | halted => exact ⟨_, step_of_halted hr hp⟩
    | idle => exact ⟨_, step_of_idle hr hp⟩
    | burst =>
      obtain hslot | hend := hinv.cyc.lt_or_eq
      · cases hm : s.mode with
        | run => exact exists_step_of_executing ⟨hr, hp, hslot, hm⟩
        | waitKey x => exact ⟨_, step_of_waitKey hr hp hslot hm⟩
      · exact ⟨_, step_of_frameEnd hr hp hend⟩

/-! The tick (R217, R223) -/

/-- Two samples that agree on the ports of the load (R236). -/
structure Inputs.SameLoad (p q : Inputs) : Prop where
  loadEn : p.loadEn = q.loadEn
  loadAddr : p.loadAddr = q.loadAddr
  loadData : p.loadData = q.loadData

@[simp] theorem takeReset_env (c : Params) (s : State) (p : Inputs) : (State.takeReset c s p).env = s.env := by
  rw [State.takeReset, applyLoad_eq]

@[simp] theorem takeReset_clock (c : Params) (s : State) (p : Inputs) : (State.takeReset c s p).clock = s.clock := by
  rw [State.takeReset, applyLoad_eq]

/-- R250, R252: reset takes from its sample the load port alone. -/
theorem takeReset_inEnvironment {e : List Inputs} {n : Nat} (h : q.SameLoad p) (c : Params) (s : State) :
    State.takeReset c (s.inEnvironment e n) q = (State.takeReset c s p).inEnvironment e n := by
  simp only [State.takeReset, applyLoad_eq, h.loadEn, h.loadAddr, h.loadData]
  rfl

/-- R217, R222: outside IDLE a step takes from its sample every port but the tick: reset reads the load port, a halted
core nothing, and a burst the keys and the random byte. -/
theorem step_sample_of_not_idle {rest : List Inputs} (henv : s.env = p :: rest) (hphase : s.phase ≠ .idle)
    (hreset : q.reset = p.reset) (hload : q.SameLoad p) (hreads : q.SameReads p) :
    step (s.inEnvironment (q :: rest) s.clock) = step s := by
  have hin : s.inputs = p := by rw [State.inputs, henv]
  have hin' : (s.inEnvironment (q :: rest) s.clock).inputs = q := rfl
  have htail : (q :: rest).tail = s.env.tail := by rw [henv]; rfl
  rw [← hin] at hreset hload hreads
  rw [← hin'] at hreset hload hreads
  cases hr : s.inputs.reset with
  | true =>
    rw [step_of_reset (hreset.trans hr), step_of_reset hr, takeReset_inEnvironment hload, inEnvironment_passTime]
    · rw [htail, takeReset_env]
    · rw [takeReset_clock]
  | false =>
    cases hp : s.phase with
    | halted =>
      rw [step_of_halted (hreset.trans hr) hp, step_of_halted hr hp]
      exact congrArg _ (inEnvironment_passTime (t := s.clearPulses) htail rfl)
    | idle => exact absurd hp hphase
    | burst =>
      rw [step_of_burst (hreset.trans hr) hp, step_of_burst hr hp]
      exact burstStep_inEnvironment hreads htail

/-- Settles O58: with the tick changed, every other port shows the same. -/
theorem tickIgnoredOutsideIdle : Obligations.TickIgnoredOutsideIdle := by
  unfold Obligations.TickIgnoredOutsideIdle
  intro s p rest b henv hphase
  exact step_sample_of_not_idle henv hphase rfl ⟨rfl, rfl, rfl⟩ ⟨rfl, rfl, rfl, rfl⟩

end Sys2Proof.Machine
end

section
/-! The family 60_exceptions.md, bursts: how many instructions complete in one. -/

open Sys2Proof.Claims

namespace Sys2Proof.Machine

variable {c : Params} {s t : State}

/-- R221: an instruction that leaves the engine running is counted. -/
theorem countCompleted_of_running (hp : s.phase ≠ .halted) (hm : s.mode = .run) :
    s.countCompleted = { s with cyc := s.cyc + 1 } :=
  if_pos ⟨hp, hm⟩

/-- R212, R213: one that halts the core is not. -/
theorem countCompleted_of_halted (hp : s.phase = .halted) : s.countCompleted = s :=
  if_neg fun ⟨hrunning, _⟩ => hrunning hp

@[simp] theorem countCompleted_phase (s : State) : s.countCompleted.phase = s.phase := by rw [countCompleted_eq]
@[simp] theorem countCompleted_mode (s : State) : s.countCompleted.mode = s.mode := by rw [countCompleted_eq]
@[simp] theorem countCompleted_dt (s : State) : s.countCompleted.dt = s.dt := by rw [countCompleted_eq]
@[simp] theorem countCompleted_st (s : State) : s.countCompleted.st = s.st := by rw [countCompleted_eq]
@[simp] theorem countCompleted_tone (s : State) : s.countCompleted.tone = s.tone := by rw [countCompleted_eq]

/-- R101, R103: an instruction leaves `PHASE` or halts the core. -/
theorem execIn_phase {i : Instr} (he : execIn c i s = .next t) : t.phase = s.phase ∨ t.phase = .halted := by
  obtain ⟨h, -⟩ | ⟨h, -⟩ | ⟨-, -, h, -⟩ := execIn_phase_mode he
  · exact .inl h
  · exact .inr h
  · exact .inl h

/-- R250: after a step under reset the machine is in IDLE. -/
theorem takeReset_phase (c : Params) (s : State) (p : Inputs) : (State.takeReset c s p).phase = .idle := by
  rw [State.takeReset, applyLoad_eq]; rfl

/-- R223: a step that leaves IDLE for a burst starts it with no instruction completed. -/
theorem cyc_eq_zero_of_burst_starts (hp : s.phase = .idle) (hs : cycle c s = .next t) (ht : t.phase = .burst) :
    t.cyc = 0 := by
  cases cycle_cases hs with
  | reset =>
    rw [passTime_phase, takeReset_phase] at ht
    cases ht
  | idle =>
    cases htick : s.inputs.tick with
    | true => simp [State.idleStep, htick]
    | false => simp [State.idleStep, htick, serveLoad_eq, hp] at ht
  | halted _ h | frameEnd _ h | instr _ h | unrecognized _ h | poll _ h => cases h.symm.trans hp

/-- R221, R193: `CYC` counts the steps of a burst after which the engine runs, and no other. -/
theorem cyc_of_burst_goes_on (hp : s.phase = .burst) (hs : cycle c s = .next t) (ht : t.phase = .burst) :
    t.cyc = if t.mode = .run then s.cyc + 1 else s.cyc := by
  cases cycle_cases hs with
  | reset =>
    rw [passTime_phase, takeReset_phase] at ht
    cases ht
  | halted _ h | idle _ h => cases h.symm.trans hp
  | frameEnd => cases ht
  | instr _ _ _ _ i _ u hu =>
    obtain ⟨hslot : u.cyc = s.cyc, -⟩ := execIn_keeps hu
    replace ht : u.phase = .burst := by simpa using ht
    simp [countCompleted_eq, ht, hslot]
  | unrecognized _ _ _ hm op =>
    have hrunning : s.phase ≠ .halted := by simp [hp]
    rw [countCompleted_of_running (s := s.fetched.raiseDiagnostic op) hrunning hm]
    exact (if_pos hm).symm
  | poll _ _ _ x hm =>
    obtain ⟨-, hpoll⟩ | ⟨k, -, hpoll⟩ := pollStep_cases s.clearPulses x <;> rw [hpoll]
    · simp [hm]
    · rfl

/-- R222 (d): the step that ends a burst is the frame-end step, after `CPF` completed instructions. -/
theorem cyc_eq_cpf_of_burst_ends (hp : s.phase = .burst) (hr : s.inputs.reset = false) (hs : cycle c s = .next t)
    (ht : t.phase = .idle) : s.cyc = c.cpf := by
  cases cycle_cases hs with
  | reset h => cases h.symm.trans hr
  | halted _ h | idle _ h => cases h.symm.trans hp
  | frameEnd _ _ hcyc => exact hcyc
  | instr _ _ _ _ i _ u hu =>
    rw [passTime_phase, countCompleted_phase] at ht
    obtain h | h := execIn_phase hu
    · cases ht.symm.trans (h.trans hp)
    · cases ht.symm.trans h
  | unrecognized =>
    rw [passTime_phase, countCompleted_phase] at ht
    cases ht.symm.trans hp
  | poll _ _ _ x =>
    obtain ⟨-, hpoll⟩ | ⟨k, -, hpoll⟩ := pollStep_cases s.clearPulses x <;> rw [hpoll] at ht <;>
      cases ht.symm.trans hp

/-- R229: inside a burst `CYC` is the number of completed instructions. -/
theorem cyc_of_burstRun {n : Nat} (h : BurstRun c s n t) (hp : s.phase = .burst) (hcyc : s.cyc = 0) :
    t.phase = .burst ∧ t.cyc = n := by
  induction h with
  | start => exact ⟨hp, hcyc⟩
  | completes _ hs hu hm ih =>
    obtain ⟨ht, hn⟩ := ih
    exact ⟨hu, by rw [cyc_of_burst_goes_on ht hs hu, if_pos hm, hn]⟩
  | waits _ hs hu hm ih =>
    obtain ⟨ht, hn⟩ := ih
    exact ⟨hu, by rw [cyc_of_burst_goes_on ht hs hu, hm, if_neg (by simp), hn]⟩

/-- Settles O45: `CYC` counts from 0 at the tick to `CPF` at the frame end. -/
theorem burstCompletesCpf : Obligations.BurstCompletesCpf := by
  unfold Obligations.BurstCompletesCpf
  intro c s a b e n hidle htick hburst hrun hreset hend he
  obtain ⟨hb, hn⟩ := cyc_of_burstRun hrun hburst (cyc_eq_zero_of_burst_starts hidle htick hburst)
  rw [← hn]
  exact cyc_eq_cpf_of_burst_ends hb hreset hend he

end Sys2Proof.Machine
end

section
/-! The family 60_exceptions.md, the instruction step: what it runs, and what a fatal condition and an unrecognised word
make of it. -/

open Sys2Proof.Claims

namespace Sys2Proof.Machine

variable {s t : State}

/-! The fetch and the end of the instruction step (R221) -/

/-- R221: the fetch, after the fall of the pulses. -/
theorem fetched_same (s : State) : SameExcept (· = .pc) s.clearPulses s.fetched :=
  setPc_same s.clearPulses (s.pc + 2)

/-- R16, R25: during the execute phase, `A` is the address before the fetch (log 4). -/
theorem fetched_fetchedFrom (s : State) : s.fetched.fetchedFrom = s.pc :=
  BitVec.add_sub_cancel s.pc 2

theorem countCompleted_same (s : State) : SameExcept (· = .cyc) s s.countCompleted := by
  rw [countCompleted_eq]
  exact withCyc_same s _

/-- Settles O40: the step ends with the count of the instruction and the passing of time. -/
theorem stepRunsDecodedInstruction : Obligations.StepRunsDecodedInstruction := by
  unfold Obligations.StepRunsDecodedInstruction
  intro s i h hd
  obtain ⟨t, ht⟩ := everyInstructionHasNextState i s.fetched
  refine ⟨t, ht, (step_of_executing h hd ht).trans ?_⟩
  have hcount : (if t.phase = .halted ∨ t.mode ≠ .run then t.cyc else t.cyc + 1) =
      if t.phase ≠ .halted ∧ t.mode = .run then t.cyc + 1 else t.cyc := by
    rw [← ite_not]
    simp only [not_or, not_not]
  rw [hcount, countCompleted_eq]
  rfl

/-! The fatal conditions (R212, R213, R218) -/

/-- R218: the step of an instruction that raises a fatal condition. -/
theorem step_of_raiseFatal {i : Instr} {code : BitVec 2} {info : Addr} (h : Executing s)
    (hd : decodeWord (nextWord s) = .instr i) (he : exec i s.fetched = .next (s.fetched.raiseFatal code info)) :
    ∃ t, step s = .next t ∧ t.fatal = code ∧ t.fatalPc = s.pc ∧ t.fatalInfo = info ∧ t.phase = .halted ∧
      t.pc = s.pc + 2 ∧ t.cyc = s.cyc ∧
      SameExcept (fun p => FatalPart p ∨ p = .pc ∨ EveryStep p) s t := by
  have hstep := step_of_executing h hd he
  rw [countCompleted_of_halted rfl] at hstep
  refine ⟨_, hstep, rfl, fetched_fetchedFrom s, rfl, rfl, rfl, rfl, ?_⟩
  refine sameExcept_passTime_of_clearPulses (fun _ hp => .inr (.inr hp)) ?_
  exact sameExcept_trans (sameExcept_mono (fetched_same s) fun _ hp => .inr (.inl hp))
    (sameExcept_mono (raiseFatal_same s.fetched code info) fun _ hp => .inl hp)

/-- Settles O36: RET on an empty stack raises code 1 and no more. -/
theorem underflowHalts : Obligations.UnderflowHalts := by
  unfold Obligations.UnderflowHalts
  constructor
  · intro s hempty
    exact ⟨_, exec_ret_of_stack_eq_nil hempty, raiseFatal_same s codeUnderflow 0⟩
  · intro s h hw hempty
    have hd : decodeWord (nextWord s) = .instr .ret := by rw [hw]; exact decodeOfEncode .ret
    exact step_of_raiseFatal h hd (exec_ret_of_stack_eq_nil (s := s.fetched) hempty)

/-- Settles O37: CALL on a full stack raises code 2 with its target and no more. -/
theorem overflowHalts : Obligations.OverflowHalts := by
  unfold Obligations.OverflowHalts
  constructor
  · intro nnn s hfull
    exact ⟨_, callIn_of_full hfull nnn, raiseFatal_same s codeOverflow nnn⟩
  · intro nnn s h hw hfull
    have hd : decodeWord (nextWord s) = .instr (.call nnn) := by rw [hw]; exact decodeOfEncode (.call nnn)
    exact step_of_raiseFatal h hd (callIn_of_full (s := s.fetched) hfull nnn)

/-! The diagnostic (R214) -/

/-- Settles O38: the engine still runs after the diagnostic, so that the word takes its slot. -/
theorem unrecognizedWordStep : Obligations.UnrecognizedWordStep := by
  unfold Obligations.UnrecognizedWordStep
  intro s op h hd
  have hrunning : s.phase ≠ .halted := by simp [h.burst]
  have hstep := step_of_unrecognized h hd
  have hframe := countCompleted_same (s.fetched.raiseDiagnostic op)
  rw [countCompleted_of_running (s := s.fetched.raiseDiagnostic op) hrunning h.run] at hstep hframe
  refine ⟨_, hstep, rfl, eq_of_decodeWord_unrecognized hd, fetched_fetchedFrom s, rfl, rfl, rfl, ?_⟩
  refine sameExcept_passTime_of_clearPulses (fun _ hp => .inr (.inr (.inr (.inr hp)))) ?_
  have hdiag := raiseDiagnostic_same s.fetched op
  refine sameExcept_trans (sameExcept_mono (fetched_same s) ?_)
    (sameExcept_trans (sameExcept_mono hdiag ?_) (sameExcept_mono hframe ?_))
  · rintro p rfl; simp
  · rintro p (rfl | rfl | rfl) <;> simp [EveryStep]
  · rintro p rfl; simp

end Sys2Proof.Machine
end

section
/-! The family 60_exceptions.md, runs and timers: the key wait that holds a burst, and what changes a timer
or `TONE`. -/

open Sys2Proof.Claims

namespace Sys2Proof.Machine

variable {s t : State}

/-! The key wait (R193, R228) -/

/-- R193: a step of a key wait in which no key is presented. -/
theorem step_of_waitKey_no_key {x : Reg} (hp : s.phase = .burst) (hslot : s.cyc < Config.hw.cpf)
    (hm : s.mode = .waitKey x) (hquiet : QuietSample s.inputs) : step s = .next s.clearPulses.passTime := by
  obtain ⟨hreset, hkey⟩ := hquiet
  rw [step_of_waitKey hreset hp hslot hm, pollStep_of_no_key (s := s.clearPulses) hkey]

/-- A run goes on from the next state of its first step. -/
theorem run_succ_of_step (h : step s = .next t) (n : Nat) : core.run (n + 1) s = core.run n t := by
  have hcore : core.step s = .next t := h
  simp only [Host.Core.run, hcore]

/-- R228: a key wait over any number of quiet samples, whose pulses are low at the end if they are low at the start or
a step is taken (log 5). -/
theorem run_of_waitKey_no_key (n : Nat) (s : State) {x : Reg} (hp : s.phase = .burst) (hslot : s.cyc < Config.hw.cpf)
    (hm : s.mode = .waitKey x) (hlen : n ≤ s.env.length) (hquiet : ∀ p ∈ s.env.take n, QuietSample p) :
    ∃ t, core.run n s = .next t ∧ SameExcept EveryStep s t ∧ t.env = s.env.drop n ∧
      (NoPulse s ∨ n ≠ 0 → NoPulse t) := by
  induction n generalizing s with
  | zero => exact ⟨s, rfl, sameExcept_refl _ s, rfl, fun h => h.resolve_right (absurd rfl)⟩
  | succ n ih =>
    cases henv : s.env with
    | nil => simp [henv] at hlen
    | cons p rest =>
      have hin : s.inputs = p := by rw [State.inputs, henv]
      have hrest : s.clearPulses.passTime.env = rest := by simp [henv]
      rw [henv] at hlen hquiet
      have hstep := step_of_waitKey_no_key hp hslot hm (hin ▸ hquiet p List.mem_cons_self)
      have hsame : SameExcept EveryStep s s.clearPulses.passTime :=
        sameExcept_passTime_of_clearPulses (fun _ h => h) (sameExcept_refl EveryStep _)
      obtain ⟨t, hrun, hsame', hdrop, hlow⟩ := ih s.clearPulses.passTime hp hslot hm
        (hrest ▸ Nat.le_of_succ_le_succ hlen) (hrest ▸ fun q hq => hquiet q (List.mem_cons_of_mem p hq))
      rw [hrest] at hdrop
      exact ⟨t, (run_succ_of_step hstep n).trans hrun, sameExcept_trans hsame hsame', hdrop,
        fun _ => hlow (.inl (clearPulses_noPulse s))⟩

/-- Settles O35: the run's own steps let the pulses fall. -/
theorem keyWaitHoldsBurst : Obligations.KeyWaitHoldsBurst := by
  unfold Obligations.KeyWaitHoldsBurst
  intro n s x hp hslot hm hlen hquiet
  obtain ⟨t, hrun, hsame, hdrop, hlow⟩ := run_of_waitKey_no_key n s hp hslot hm hlen hquiet
  exact ⟨t, hrun, hsame, hdrop, fun hn => hlow (.inr hn)⟩

/-! The timers (R225, R226) -/

/-- R225: a timer that changes at a frame end falls by exactly one. -/
theorem countDown_toNat_add_one {b : Byte} (h : countDown b ≠ b) : (countDown b).toNat + 1 = b.toNat := by
  have hfall := countDown_toNat b
  have hne : (countDown b).toNat ≠ b.toNat := fun he => h (BitVec.eq_of_toNat_eq he)
  omega

/-- R223: a step in IDLE leaves the timers and `TONE`. -/
theorem idleStep_timers (s : State) (p : Inputs) :
    (s.idleStep p).dt = s.dt ∧ (s.idleStep p).st = s.st ∧ (s.idleStep p).tone = s.tone := by
  rw [State.idleStep, serveLoad_eq]
  split <;> exact ⟨rfl, rfl, rfl⟩

/-- R193: so does a poll. -/
theorem pollStep_timers (s : State) (x : Reg) :
    (s.pollStep x).dt = s.dt ∧ (s.pollStep x).st = s.st ∧ (s.pollStep x).tone = s.tone := by
  obtain ⟨-, hs⟩ | ⟨k, -, hs⟩ := pollStep_cases s x <;> rw [hs] <;> exact ⟨rfl, rfl, rfl⟩

/-- R195, R196: an instruction that changes a timer is that timer's load. -/
theorem exec_timers {i : Instr} (he : exec i s = .next t) :
    (t.dt ≠ s.dt → ∃ x, i = .ldDtVx x ∧ t.dt = s.getV x) ∧ (t.st ≠ s.st → ∃ x, i = .ldStVx x ∧ t.st = s.getV x) := by
  obtain ⟨-, -, -, -, hdt, hst⟩ := onlyNamedInstructionsWrite i s t he
  constructor
  · intro hne
    obtain ⟨x, rfl⟩ := hdt hne
    cases he
    exact ⟨x, rfl, rfl⟩
  · intro hne
    obtain ⟨x, rfl⟩ := hst hne
    cases he
    exact ⟨x, rfl, rfl⟩

/-- Settles O44: of R222's cases without reset, a frame end counts down and an instruction may load; the others leave
both timers, and all but the frame end leave `TONE`. -/
theorem timersChangeOnlySo : Obligations.TimersChangeOnlySo := by
  unfold Obligations.TimersChangeOnlySo
  intro s t h hreset
  cases step_cases h with
  | reset hr => cases hr.symm.trans hreset
  | halted => exact ⟨absurd rfl, absurd rfl, absurd rfl⟩
  | idle =>
    obtain ⟨hdt, hst, htone⟩ := idleStep_timers s.clearPulses s.inputs
    exact ⟨absurd hdt, absurd hst, absurd htone⟩
  | frameEnd _ hp hcyc =>
    exact ⟨fun hne => .inl ⟨hp, hcyc, countDown_toNat_add_one hne⟩,
      fun hne => .inl ⟨hp, hcyc, countDown_toNat_add_one hne⟩, fun _ => ⟨hp, hcyc⟩⟩
  | instr hr hp hcyc hm i hd u hu =>
    rw [execIn_hw] at hu
    obtain ⟨hdt, hst⟩ := exec_timers hu
    obtain ⟨-, htone, -⟩ := exec_keeps hu
    have hexec : Executing s := ⟨hr, hp, hcyc, hm⟩
    simp only [passTime_dt, passTime_st, passTime_tone, countCompleted_dt, countCompleted_st, countCompleted_tone]
    refine ⟨fun hne => .inr ?_, fun hne => .inr ?_, absurd htone⟩
    · obtain ⟨x, rfl, hload⟩ := hdt hne
      exact ⟨hexec, x, hd, hload⟩
    · obtain ⟨x, rfl, hload⟩ := hst hne
      exact ⟨hexec, x, hd, hload⟩
  | unrecognized =>
    rw [countCompleted_eq]
    exact ⟨absurd rfl, absurd rfl, absurd rfl⟩
  | poll _ _ _ x =>
    obtain ⟨hdt, hst, htone⟩ := pollStep_timers s.clearPulses x
    exact ⟨absurd hdt, absurd hst, absurd htone⟩

end Sys2Proof.Machine
end

section
/-! The family 60_exceptions.md, the steps outside the instruction: HALTED, IDLE, the frame end, the load port and
reset, and the host's way to run one word. -/

open Sys2Proof.Claims

namespace Sys2Proof.Machine

variable {s t : State}

/-! Reset (R39, R250) -/

/-- The environment is no part of the core (log 1). -/
theorem inEnvironment_same (s : State) (e : List Inputs) (n : Nat) :
    SameExcept (fun p => p = .env ∨ p = .clock) s (s.inEnvironment e n) := by
  intro p hp; cases p <;> simp_all [Part.same, State.inEnvironment, State.getV, State.memRead]

/-- R39 speaks of the core and not of its environment. -/
theorem resetValues_inEnvironment {c : Params} {e : List Inputs} {n : Nat} (h : ResetValues c t) :
    ResetValues c (t.inEnvironment e n) :=
  ⟨h.v, h.i, h.pc, h.stack, h.timers, h.mode, h.phase, h.cyc, h.fatal, h.latches, h.font, h.zero, h.cells⟩

/-- R250 on this hardware: reset gives the reset state in the environment it found, and the load port is served on
it. -/
theorem takeReset_hw (s : State) (p : Inputs) :
    State.takeReset Config.hw s p = (State.reset.inEnvironment s.env s.clock).applyLoad p := by
  rw [State.takeReset, resetIn_hw]; rfl

theorem applyLoad_of_load {p : Inputs} (h : p.loadEn = true) :
    s.applyLoad p = s.memWrite p.loadAddr.toNat p.loadData := if_pos h

theorem applyLoad_of_no_load {p : Inputs} (h : p.loadEn = false) : s.applyLoad p = s :=
  if_neg (Bool.eq_false_iff.1 h)

/-! HALTED (R217 to R219) -/

/-- Settles O39: without reset only the pulses and the environment move; with reset the step is the taking of reset. -/
theorem onlyResetLeavesHalted : Obligations.OnlyResetLeavesHalted := by
  unfold Obligations.OnlyResetLeavesHalted
  intro s hp
  constructor
  · intro hr
    exact ⟨_, step_of_halted hr hp, hp, clearPulses_noPulse s,
      sameExcept_passTime_of_clearPulses (fun _ h => h) (sameExcept_refl EveryStep _)⟩
  · intro hr hload
    refine ⟨_, step_of_reset hr, ?_⟩
    rw [takeReset_hw, applyLoad_of_no_load hload]
    exact resetValues_inEnvironment (resetValues_inEnvironment resetStateValues)

/-! IDLE (R223) -/

/-- R223: a tick starts a burst, and closes the load port's window (log 9). -/
def State.startBurst (s : State) : State := { s with phase := .burst, cyc := 0, loadOpen := false }

theorem startBurst_same (s : State) :
    SameExcept (fun p => p = .phase ∨ p = .cyc ∨ p = .loadOpen) s s.startBurst := by
  intro p hp; cases p <;> simp_all [Part.same, State.startBurst, State.getV, State.memRead]

theorem idleStep_of_tick {p : Inputs} (h : p.tick = true) : s.idleStep p = (s.serveLoad p).startBurst := if_pos h

theorem idleStep_of_no_tick {p : Inputs} (h : p.tick = false) : s.idleStep p = s.serveLoad p :=
  if_neg (Bool.eq_false_iff.1 h)

/-- R236: the load port writes nothing where it is not asserted or its window is closed. -/
theorem serveLoad_of_idle_port {p : Inputs} (h : p.loadEn = true → s.loadOpen = false) : s.serveLoad p = s := by
  have hwrites : (s.loadWindow && p.loadEn) = false := by
    cases hload : p.loadEn with
    | false => exact Bool.and_false _
    | true => simp [State.loadWindow, h hload]
  rw [serveLoad_eq, hwrites]
  rfl

/-- Settles O42: where the load port writes nothing, an IDLE step starts a burst or does nothing. -/
theorem tickStartsBurst : Obligations.TickStartsBurst := by
  unfold Obligations.TickStartsBurst
  intro s hr hload hp
  have hserve : s.clearPulses.serveLoad s.inputs = s.clearPulses := serveLoad_of_idle_port hload
  refine ⟨_, step_of_idle hr hp, idleStep_noPulse (clearPulses_noPulse s) s.inputs, fun htick => ?_, fun htick => ?_⟩
  · rw [idleStep_of_tick htick, hserve]
    refine ⟨rfl, rfl, rfl, sameExcept_passTime_of_clearPulses (fun _ h => .inr (.inr (.inr h))) ?_⟩
    exact sameExcept_mono (startBurst_same s.clearPulses) fun _ => Or.imp_right (Or.imp_right .inl)
  · rw [idleStep_of_no_tick htick, hserve]
    exact sameExcept_passTime_of_clearPulses (fun _ h => h) (sameExcept_refl EveryStep _)

/-! The frame end (R224) -/

theorem frameEnd_same (s : State) :
    SameExcept (fun p => p = .dt ∨ p = .st ∨ p = .tone ∨ p = .phase ∨ p = .cyc ∨ p = .frameDone) s s.frameEnd := by
  intro p hp; cases p <;> simp_all [Part.same]

/-- Settles O43: the two timers by the law of `countDown`, `TONE` from the timer it leaves. -/
theorem frameEndStep : Obligations.FrameEndStep := by
  unfold Obligations.FrameEndStep
  intro s hr hp hcyc
  refine ⟨_, step_of_frameEnd hr hp hcyc, countDown_toNat s.dt, countDown_toNat s.st, decide_eq_true_iff, rfl, rfl, rfl,
    rfl, sameExcept_passTime_of_clearPulses (fun _ h => .inr (.inr (.inr (.inr (.inr h))))) ?_⟩
  refine sameExcept_mono (frameEnd_same s.clearPulses) ?_
  rintro p (rfl | rfl | rfl | rfl | rfl | rfl) <;> simp [EveryStep]

/-! The load port (R236) -/

theorem dataAddr_zero (a : Addr) : dataAddr a 0 = a.toNat := Memory.wrapAddr_of_lt a.isLt

/-- R51: a write changes its byte. -/
theorem memWrite_same (a : Addr) (b : Byte) (h : s.mem.wf) :
    SameExcept (· = .byte a.toNat) s (s.memWrite a.toNat b) := by
  refine sameExcept_mono (writeBytes_same (bs := [b]) a h (by simp)) ?_
  rintro p ⟨k, hk, rfl⟩
  obtain rfl : k = 0 := Nat.lt_one_iff.1 hk
  rw [dataAddr_zero]

theorem memRead_memWrite_self (a : Nat) (b : Byte) (h : s.mem.wf) : (s.memWrite a b).memRead a = b :=
  (Memory.read_write s.mem a a b h).trans (if_pos rfl)

/-- R236: the load port in its window. -/
theorem serveLoad_of_open {p : Inputs} (hp : s.phase = .idle) (hopen : s.loadOpen = true) :
    s.serveLoad p = s.applyLoad p := by
  have hwindow : s.loadWindow = true := by simp [State.loadWindow, hp, hopen]
  exact if_pos hwindow

/-- Settles O51: an IDLE step in the window writes the byte, and starts a burst on top of it under a tick. -/
theorem loadPortWritesByte : Obligations.LoadPortWritesByte := by
  unfold Obligations.LoadPortWritesByte
  intro s hwf hr hload hp hopen
  have hserve : s.clearPulses.serveLoad s.inputs =
      s.clearPulses.memWrite s.inputs.loadAddr.toNat s.inputs.loadData :=
    (serveLoad_of_open (s := s.clearPulses) hp hopen).trans (applyLoad_of_load hload)
  have hread := memRead_memWrite_self (s := s.clearPulses) s.inputs.loadAddr.toNat s.inputs.loadData hwf
  have hsame := memWrite_same (s := s.clearPulses) s.inputs.loadAddr s.inputs.loadData hwf
  refine ⟨_, step_of_idle hr hp, ?_⟩
  cases htick : s.inputs.tick with
  | true =>
    rw [idleStep_of_tick htick, hserve]
    refine ⟨hread, fun _ => ⟨rfl, rfl⟩, sameExcept_passTime_of_clearPulses (fun _ h => .inr (.inr h)) ?_⟩
    exact sameExcept_trans (sameExcept_mono hsame fun _ => .inl)
      (sameExcept_mono (startBurst_same _) fun _ h => .inr (.inl ⟨rfl, h⟩))
  | false =>
    rw [idleStep_of_no_tick htick, hserve]
    refine ⟨hread, fun h => Bool.noConfusion h, sameExcept_passTime_of_clearPulses (fun _ h => .inr (.inr h)) ?_⟩
    exact sameExcept_mono hsame fun _ => .inl

/-- Settles O52: the byte is written to the reset state. -/
theorem loadDuringReset : Obligations.LoadDuringReset := by
  unfold Obligations.LoadDuringReset
  intro s hr hload
  have hwf : (State.reset.inEnvironment s.env s.clock).mem.wf := resetMeetsInvariant.memory
  refine ⟨_, step_of_reset hr, ?_⟩
  rw [takeReset_hw, applyLoad_of_load hload]
  refine ⟨memRead_memWrite_self _ _ hwf, ?_⟩
  have henv := inEnvironment_same State.reset s.env s.clock
  have hbyte := memWrite_same s.inputs.loadAddr s.inputs.loadData hwf
  exact sameExcept_trans (sameExcept_mono henv fun _ => .inr)
    (sameExcept_trans (sameExcept_mono hbyte fun _ => .inl) (sameExcept_mono (passTime_same _) fun _ => .inr))

/-! The next step's word (R221, log 15) -/

/-- R54: the two bytes of a word make it up. -/
theorem extract_append_extract (op : Word) : op.extractLsb' 8 8 ++ op.extractLsb' 0 8 = op := by
  have h : op.extractLsb' 8 8 ++ op.extractLsb' 0 8 = op.extractLsb' 0 16 :=
    BitVec.extractLsb'_append_extractLsb'_eq_extractLsb' rfl
  exact h.trans BitVec.extractLsb'_eq_self

/-- R53, R54: a fetch reads back the word whose bytes were stored there. -/
theorem fetch16_writeBytes_bytesOf {m : Memory} (a : Addr) (op : Word) (h : m.wf) :
    fetch16 (m.writeBytes a.toNat (bytesOf op)) a.toNat = op := by
  have hlen : (bytesOf op).length ≤ 4096 := (by decide : 2 ≤ 4096)
  have hhigh := read_writeBytes_dataAddr (k := 0) a h hlen Nat.zero_lt_two
  have hlow := read_writeBytes_dataAddr (k := 1) a h hlen Nat.one_lt_two
  rw [← read_dataAddr_add_one, dataAddr_zero] at hlow
  rw [dataAddr_zero] at hhigh
  rw [fetch16, hhigh, hlow]
  exact extract_append_extract op

theorem readyToFetch_same (s : State) :
    SameExcept (fun p => p = .phase ∨ p = .mode ∨ p = .cyc ∨ p = .loadOpen ∨ p = .env) s s.readyToFetch := by
  intro p hp; cases p <;> simp_all [Part.same, State.readyToFetch, State.getV, State.memRead]

theorem readyToFetch_executing (s : State) : Executing s.readyToFetch where
  noReset := by
    cases henv : s.env <;> simp [State.inputs, State.readyToFetch, henv, quietFirst, Inputs.free]
  burst := rfl
  slot := by
    show (if s.cyc < Config.hw.cpf then s.cyc else 0) < Config.hw.cpf
    split
    · assumption
    · decide
  run := rfl

/-- Settles O59: the stored word is fetched whole, and lies at the two bytes from `PC`. -/
theorem fetchWordIsNext : Obligations.FetchWordIsNext := by
  unfold Obligations.FetchWordIsNext
  intro s w hwf
  have hword : BitVec.ofNat 16 (w % 2 ^ 16) = BitVec.ofNat 16 w :=
    BitVec.eq_of_toNat_eq (by simp only [BitVec.toNat_ofNat, Nat.mod_mod])
  obtain ⟨hreset, hburst, hslot, hrun⟩ := readyToFetch_executing s
  have hready := readyToFetch_same s
  have hbytes := writeBytes_same (s := s.readyToFetch) (bs := bytesOf (BitVec.ofNat 16 w)) s.pc hwf
    (by decide : 2 ≤ 4096)
  rw [State.withFetchWord, hword]
  exact ⟨⟨hreset, hburst, hslot, hrun⟩, fetch16_writeBytes_bytesOf s.pc _ hwf,
    sameExcept_trans (sameExcept_mono hready fun _ => .inr) (sameExcept_mono hbytes fun _ => .inl)⟩

end Sys2Proof.Machine
end

section
/-! The family 70_reset_and_hazards.md: the step under reset, and the host's program load. -/

open Sys2Proof.Claims

namespace Sys2Proof.Machine

variable {c : Params} {s t : State} {p : Inputs} {image : List Byte}

/-! Reset (R250, R252) -/

/-- R250: with reset asserted the step is the taking of reset, for every configuration. -/
theorem cycle_of_reset (c : Params) (hr : s.inputs.reset = true) :
    cycle c s = .next (State.takeReset c s s.inputs).passTime := if_pos hr

/-- R250, R252: reset without a load replaces the core and keeps its environment. -/
theorem takeReset_of_no_load (c : Params) (s : State) (h : p.loadEn = false) :
    State.takeReset c s p = (State.resetIn c).inEnvironment s.env s.clock := applyLoad_of_no_load h

/-- Settles O46: the step leaves the reset state of the configuration, in the environment one sample further on. -/
theorem resetStepTakesResetValues : Obligations.ResetStepTakesResetValues := by
  unfold Obligations.ResetStepTakesResetValues
  intro c s hc hr hload
  refine ⟨_, cycle_of_reset c hr, ?_⟩
  rw [takeReset_of_no_load c s hload]
  exact ⟨resetValues_inEnvironment (resetValues_inEnvironment (resetIn_resetValues hc)), rfl⟩

/-! The program load (R255) and the boot order (R256), one equation for each branch -/

theorem loadProgram_of_fits (s : State) (h : image.length ≤ 3584) :
    s.loadProgram image = some { s with mem := s.mem.writeBytes 0x200 image } := if_pos (decide_eq_true h)

theorem loadProgram_of_too_long (s : State) (h : image.length > 3584) : s.loadProgram image = none :=
  if_neg fun hfits => Nat.not_le_of_lt h (of_decide_eq_true hfits)

theorem boot_of_wf (image : List Byte) (h : c.wf = true) :
    State.boot c image = (State.resetIn c).loadProgram image := if_pos h

theorem boot_of_not_wf (image : List Byte) (h : c.wf = false) : State.boot c image = none :=
  if_neg (Bool.eq_false_iff.1 h)

/-- R255: an image that fits below the top of memory does not wrap, so it changes the bytes from 0x200 upwards. -/
theorem writeImage_same (hwf : s.mem.wf) (hlen : image.length ≤ 3584) :
    SameExcept (StoredByte (0x200 + ·) image.length) s { s with mem := s.mem.writeBytes 0x200 image } :=
  withMem_same fun a ha hother => Memory.read_writeBytes_other hwf (by omega) fun k hk => by
    rw [Memory.wrapAddr_of_lt ha, Memory.wrapAddr_of_lt (by omega)]
    exact hother k hk

/-- R255: what the load of an image that fits leaves, byte by byte, and its frame. -/
theorem loadProgram_loads (hwf : s.mem.wf) (hlen : image.length ≤ 3584) :
    ∃ t, s.loadProgram image = some t ∧ (∀ j (h : j < image.length), t.memRead (0x200 + j) = image[j]) ∧
      SameExcept (StoredByte (0x200 + ·) image.length) s t :=
  ⟨_, loadProgram_of_fits s hlen, fun _ hj => Memory.read_writeBytes_stored 0x200 hwf (by omega) hj,
    writeImage_same hwf hlen⟩

/-- R58, R255: what is stored from 0x200 upwards leaves the font and the zero region of a reset state. -/
theorem memoryBelowProgram_of_same {n : Nat} (hreset : ResetValues c s)
    (hsame : SameExcept (StoredByte (0x200 + ·) n) s t) : MemoryBelowProgram c t := by
  have hbelow : ∀ a < 0x200, t.memRead a = s.memRead a := by
    intro a ha
    refine hsame (.byte a) ?_ (by omega)
    rintro ⟨k, -, hk⟩
    have haddr : a = 0x200 + k := Part.byte.inj hk
    omega
  exact ⟨fun a ha => (hbelow a (by omega)).trans (hreset.font a ha),
    fun a h80 ha => (hbelow a ha).trans (hreset.zero a h80 (by omega))⟩

/-- Settles O54: booting is the load into the reset state, whose memory below the program it leaves. -/
theorem programLoadContract : Obligations.ProgramLoadContract := by
  unfold Obligations.ProgramLoadContract
  refine ⟨fun _ _ hwf hlen => loadProgram_loads hwf hlen, fun s _ hlong => loadProgram_of_too_long s hlong, ?_,
    fun _ image hc => boot_of_not_wf image hc⟩
  intro c image hc hlen
  obtain ⟨t, hload, hbytes, hsame⟩ := loadProgram_loads (resetIn_wf c) hlen
  exact ⟨t, (boot_of_wf image hc).trans hload, memoryBelowProgram_of_same (resetIn_resetValues hc) hsame, hbytes,
    hsame⟩

end Sys2Proof.Machine
end
